-- ==== Sys2Proof/Word.lean ====
section
/-! DEFINITION. The word types of huffman_decoder (spec 00_scope.md R7, R8): a byte, a stored slot word and a node id. -/

namespace Sys2Proof

/-- A byte of `SRC` or `DST`: bits 7 (most significant) to 0 (R7). -/
abbrev Byte := BitVec 8

/-- A stored slot word of the ROM: `EW = 16` bits, bit 15 the sign (R4, R7, R61). -/
abbrev SlotWord := BitVec 16

/-- A node id `0 .. 255`, the width of the register `NODE` (R11). -/
abbrev NodeId := BitVec 8

end Sys2Proof
end

