-- ==== Sys2Proof/Config.lean ====
section
/-! DEFINITION. The FIXED parameters of R4 and the values the model names where the spec leaves a parameter OPEN.
The OPEN parameters themselves (`TABLE`, `AW`, `SRC_SIZE`, `DST_SIZE`, `N_INST`) are data of the state that no step
changes, so that every statement quantifies over them (log 1, log 3, log 16). -/

namespace Sys2Proof.Config

/-- `NODES`, the number of table entries (R4). -/
def nodes : Nat := 256

/-- `SLOTS`, the values per entry (R4). -/
def slots : Nat := 2

/-- `SENTINEL_END`, the end-of-message value (R4, R63). -/
def sentinelEnd : Int := -256

/-- The default of the OPEN width `AW` (R4). -/
def defaultAW : Nat := 32

/-- The default of the OPEN parameter `N_INST` (R4). -/
def defaultInstances : Nat := 1

/-- What a ROM slot with no listed word holds: -256, as R76 has it for the entries of a table that are not listed.
DESIGN CHOICE (log 2), unsafe for a claim about `State.reset`'s own table only: every table is some list. -/
def unlistedSlot : SlotWord := 0xFF00

/-- What a byte of `SRC` or `DST` with no listed value reads as.
DESIGN CHOICE (log 4), unsafe for a claim about `State.reset`'s own bytes only: every content is some list. -/
def unlistedByte : Byte := 0x00

/-- The size `State.reset` gives both spans: the largest that R4 admits at the default width.
DESIGN CHOICE (log 3), unsafe for a claim about `State.reset`'s own sizes only. -/
def resetSpan : Nat := 2 ^ defaultAW - 1

end Sys2Proof.Config
end

