-- ==== Sys2Proof/Machine/State.lean ====
section
/-! DEFINITION. The state of one huffman_decoder and the reasons it can stop. Plain data: every register of
10_state.md, the three spaces, the parameters of R4, and two fields of the model's own (the host's pending moves and
the answer of the last register read). INVENTORY.md lists each with its rule and its reset value. -/

namespace Sys2Proof.Machine

/-- `STATUS.STATE` (R22). -/
inductive CallState where
  /-- 0: reset state, no call made yet. -/
  | idle
  /-- 1: a call is running. -/
  | busy
  /-- 2: the last call ended with a decode outcome. -/
  | done
  /-- 3: the last call ended in a fault; only reset leaves this state. -/
  | fault
  deriving DecidableEq, Repr

/-- `STATUS.FAULT_CODE` (R22). -/
inductive FaultCode where
  /-- 0: none. -/
  | none
  /-- 1: the source window leaves the source span (R153). -/
  | srcRange
  /-- 2: the destination offset lies outside the destination span (R154). -/
  | dstRange
  /-- 3: a byte to store and no room for it (R155). -/
  | dstOverflow
  deriving DecidableEq, Repr

/-- The three registers that reset leaves with no value (R28, R37). -/
inductive Operand where
  | srcOff
  | srcLen
  | dstOff
  deriving DecidableEq, Repr

/-- One move of the host (R6, R20, R170, R173). DESIGN CHOICE, log 8: the moves stand in `State.inputs`. -/
inductive HostOp where
  /-- Write the number `v` to register `n` (R20, R27). -/
  | writeReg (n v : Nat)
  /-- Read register `n` (R20, R27). -/
  | readReg (n : Nat)
  /-- Store a byte into the host's own `SRC` memory (R30, R173, R176). -/
  | storeSrc (i : Nat) (b : Byte)
  /-- Store a byte into the host's own `DST` memory (R33, R176). -/
  | storeDst (i : Nat) (b : Byte)
  /-- Apply reset (R170). -/
  | reset
  /-- Leave this step to the walker. -/
  | idle
  deriving DecidableEq, Repr

/-- The machine stops: an access to an address the spec says does not exist, or a state no run reaches. -/
inductive Fault where
  /-- The walker's read of `SRC[i]` with `i >= SRC_SIZE`. Raised by the head of the bit step. SAFE: R45 and R136 say
  that no call makes such a read (log 14). -/
  | srcReadOutsideSpan (i : Nat)
  /-- The bit step in a state whose `BITNUM` is not in `1 .. 8`. Raised by the head of the bit step. SAFE: R12 and
  R136 say that no state of a run is such (log 14). -/
  | bitnumOutOfRange (b : BitVec 4)
  /-- The host stores to an index that its span does not have. Raised by the host moves `storeSrc`, `storeDst`.
  SAFE (log 12). -/
  | hostStoreOutsideSpan (i : Nat)
  deriving DecidableEq, Repr

/-- The model gives the step no meaning. -/
inductive Refusal where
  /-- An instruction with no meaning yet. Raised by an arm of `exec`; none does. SAFE. -/
  | notModelled (mnemonic : String)
  /-- A slot of class `RSVD`: the configuration fails `WF_range` and is refused (R66, R86, D13, U1). Raised by the
  instruction `RSVD` and by every step of such a configuration. SAFE. -/
  | tableFailsWfRange
  /-- `SRC_SIZE` or `DST_SIZE` above `2^AW - 1`: not a configuration of this hardware (R4). Raised by every step of
  such a configuration. SAFE. -/
  | spanSizeOutsideWidth
  /-- An accepted `START` while an operand register holds no value (R28, U3, D17). Raised by `START`. SAFE. -/
  | startWithoutValue (r : Operand)
  /-- A host read of an operand register that holds no value (R28, U3, D17). Raised by the host move `readReg`. SAFE. -/
  | readWithoutValue (r : Operand)
  /-- A host store while a call runs: the walker owns the `SRC` and `DST` bytes and the host has no such move (R30, R163,
  R176, U4). Raised by the host moves `storeSrc`, `storeDst`. SAFE for the model's own runs; the spec flags the exclusion
  as erring toward proving (U4, log 12). -/
  | hostStoreDuringCall (i : Nat)
  /-- A host store in `FAULT`, where nobody may change anything until reset (R163, R180). Raised by the host moves
  `storeSrc`, `storeDst`. SAFE (log 12). -/
  | hostStoreInFault (i : Nat)
  deriving DecidableEq, Repr

/-- The state of one huffman_decoder (R10), its parameters (R4) and the host's pending moves. -/
structure State where
  /-- The parameter `AW`, the width of the offset, length and count registers (R4). No step changes it. -/
  aw : Nat
  /-- The parameter `SRC_SIZE` (R4). No step changes it. -/
  srcSize : Nat
  /-- The parameter `DST_SIZE` (R4). No step changes it. -/
  dstSize : Nat
  /-- The parameter `TABLE`: the words of the ROM by slot address `2 n + b` (R4, R60, R61). No step changes it. -/
  rom : List (Nat × SlotWord)
  /-- The bytes of `SRC` (R32). -/
  src : List Host.Cell
  /-- The bytes of `DST` (R33). -/
  dst : List Host.Cell
  /-- `NODE` (R11). -/
  node : NodeId
  /-- `BITNUM` (R12). -/
  bitnum : BitVec 4
  /-- `SRC_OFF`, register 2 and the cursor's byte index (R13, R23). -/
  srcOff : Nat
  /-- `DEST_POS` (R14). -/
  destPos : Nat
  /-- `END_POS` (R15). -/
  endPos : Nat
  /-- `SRC_LEN`, register 3 (R24). -/
  srcLen : Nat
  /-- `DST_OFF`, register 4 (R25). -/
  dstOff : Nat
  /-- `BYTES_WRITTEN`, register 5 (R26). -/
  bytesWritten : Nat
  /-- `STATUS.STATE` (R22). -/
  state : CallState
  /-- `STATUS.SUCCESS` (R19, R22). -/
  success : Bool
  /-- `STATUS.FAULT_CODE` (R22). -/
  faultCode : FaultCode
  /-- Whether `SRC_OFF` holds a value: the host has written it since reset (R28). -/
  srcOffHeld : Bool
  /-- Whether `SRC_LEN` holds a value (R28). -/
  srcLenHeld : Bool
  /-- Whether `DST_OFF` holds a value (R28). -/
  dstOffHeld : Bool
  /-- The model's own: what the last answered host read returned (log 9). -/
  readData : Option Nat
  /-- The model's own: the host's moves to come, the next one first (log 8). -/
  inputs : List HostOp
  deriving DecidableEq, Repr

/-- The machine right after reset (R37): `IDLE`, nothing succeeded, no fault, nothing written, the operand registers
hold no value. The cursor, the parameters and the spaces are at the values the log names (log 2 to log 6). -/
def State.reset : State where
  aw := Config.defaultAW
  srcSize := Config.resetSpan
  dstSize := Config.resetSpan
  rom := []
  src := []
  dst := []
  node := 0
  bitnum := 8
  srcOff := 0
  destPos := 0
  endPos := 0
  srcLen := 0
  dstOff := 0
  bytesWritten := 0
  state := .idle
  success := false
  faultCode := .none
  srcOffHeld := false
  srcLenHeld := false
  dstOffHeld := false
  readData := none
  inputs := []

end Sys2Proof.Machine
end

