-- ==== Sys2Proof/Machine/Flags.lean ====
section
/-! DEFINITION. The flags: the fields of `STATUS` (R19, R22) and the byte the host reads from it. There are no condition
codes. -/

namespace Sys2Proof.Machine

/-- The two bits of `STATUS.STATE` (R22). -/
def stateBits : CallState → BitVec 2
  | .idle => 0
  | .busy => 1
  | .done => 2
  | .fault => 3

/-- The three bits of `STATUS.FAULT_CODE` (R22). -/
def faultBits : FaultCode → BitVec 3
  | .none => 0
  | .srcRange => 1
  | .dstRange => 2
  | .dstOverflow => 3

/-- `SUCCESS` as the host reads it: 0 in every state but `DONE` (R22, R27). -/
def successRead (s : State) : Bool :=
  match s.state with
  | .done => s.success
  | .idle | .busy | .fault => false

/-- `FAULT_CODE` as the host reads it: 0 in every state but `FAULT` (R22, R27). -/
def faultRead (s : State) : FaultCode :=
  match s.state with
  | .fault => s.faultCode
  | .idle | .busy | .done => .none

/-- The byte of register 1, bit 7 first: 0, `FAULT_CODE`, 0, `SUCCESS`, `STATE` (R22). -/
def statusByte (s : State) : Byte :=
  0#1 ++ faultBits (faultRead s) ++ 0#1 ++ BitVec.ofBool (successRead s) ++ stateBits s.state

/-- `BYTES_WRITTEN` as the host reads it: 0 while a call runs (R26, R27). -/
def bytesWrittenRead (s : State) : Nat :=
  match s.state with
  | .busy => 0
  | .idle | .done | .fault => s.bytesWritten

end Sys2Proof.Machine
end

