-- ==== Sys2Proof/Syntax.lean ====
section
/-! DEFINITION. The instructions: one constructor per row of spec/opcode_table.json. What "instruction" means for
this block is R5: a slot value fetched from the ROM, or the host command `START`. -/

namespace Sys2Proof

/-- One constructor per row of the opcode table, with the row's fields as operands. -/
inductive Instr where
  /-- Row `END`: the end-of-message sentinel (R63). -/
  | endMessage
  /-- Row `EMIT`, variant "zero": the stored 0, byte `0x00` (R64, R69). -/
  | emitZero
  /-- Row `EMIT`, variant "observed range": `11111111kkkkkkkk`, `k != 0` (R64). -/
  | emitNear (k : BitVec 8)
  /-- Row `EMIT`, variant "wide": `1kkkkkkkkkkkkkkk`, bits 15:8 not all ones (R64, D20). -/
  | emitWide (k : BitVec 15)
  /-- Row `NODE`: `00000000nnnnnnnn`, `n != 0`, the target node (R65). -/
  | node (n : NodeId)
  /-- Row `RSVD`: `0kkkkkkkkkkkkkkk`, bits 14:8 not all zero, a value no table of this hardware holds (R66). -/
  | rsvd (k : BitVec 15)
  /-- Row `START`: a write to `CTRL` with bit 0 set; `r` is bits 7:1 of the written value, which are ignored (R71). -/
  | start (r : BitVec 7)
  deriving DecidableEq, Repr

end Sys2Proof
end

