-- ==== Sys2Proof/WellFormed.lean ====
section
/-! DEFINITION. Which instructions have an encoding of their own: the "constraint" column of R67. -/

namespace Sys2Proof

/-- The constraint of the instruction's row of the opcode table (R67): it keeps the six slot rows apart. -/
def Instr.wellFormed : Instr → Bool
  | .endMessage => true
  | .emitZero => true
  | .emitNear k => k != 0
  | .emitWide k => k.extractLsb' 8 7 != 0x7F
  | .node n => n != 0
  | .rsvd k => k.extractLsb' 8 7 != 0
  | .start _ => true

end Sys2Proof
end

