-- ==== Sys2Proof/Decode.lean ====
section
/-! DEFINITION. The decoder, total and rejecting by name, and after it the encoder, both written from R67, R71 and the
opcode table. There are two encoding spaces: a 16-bit slot word of the ROM and an 8-bit value written to `CTRL`
(the table's formats SLOT16 and CTRL8). -/

namespace Sys2Proof

/-- The bits of an instruction, in the encoding space they belong to (the table's column "format"). -/
inductive Code where
  /-- SLOT16: a word of the ROM (R61). -/
  | slot (w : SlotWord)
  /-- CTRL8: a value written to register 0 (R71). -/
  | ctrl (v : Byte)
  deriving DecidableEq, Repr

/-- Why bits are no instruction. -/
inductive Reject where
  /-- A value written to `CTRL` with bit 0 clear: no command (R21, R71). The host move then has no effect. -/
  | startBitClear
  /-- Neither of the two formats of the opcode table has this many bits. -/
  | noSuchFormat (nbits : Nat)
  /-- The number does not fit the format's bits. -/
  | wordTooWide (nbits : Nat)
  deriving DecidableEq, Repr

/-- The high byte of a slot word, bits 15:8. -/
def slotHigh (w : SlotWord) : BitVec 8 := w.extractLsb' 8 8

/-- The low byte of a slot word, bits 7:0. -/
def slotLow (w : SlotWord) : BitVec 8 := w.extractLsb' 0 8

/-- Bits 14:0 of a slot word. -/
def slotRest (w : SlotWord) : BitVec 15 := w.extractLsb' 0 15

/-- The six slot rows in the table's order of priority; every 16-bit word is one of them (R67). -/
def decodeSlot (w : SlotWord) : Instr :=
  if w = 0xFF00 then .endMessage
  else if w = 0x0000 then .emitZero
  else if slotHigh w = 0xFF then .emitNear (slotLow w)
  else if w.getLsbD 15 then .emitWide (slotRest w)
  else if slotHigh w = 0x00 then .node (slotLow w)
  else .rsvd (slotRest w)

/-- A value written to `CTRL`: bit 0 set is `START`, bits 7:1 are ignored (R21, R71). -/
def decodeCtrl (v : Byte) : Except Reject Instr :=
  if v.getLsbD 0 then .ok (.start (v.extractLsb' 1 7)) else .error .startBitClear

/-- The decoder: total on the bits of both encoding spaces. -/
def decode : Code → Except Reject Instr
  | .slot w => .ok (decodeSlot w)
  | .ctrl v => decodeCtrl v

/-- The bits of a numbered instruction of the opcode table: 16 bits are a slot word, 8 bits a write to `CTRL`
(DESIGN CHOICE, log 19: the two formats have different widths, so the width names the space). -/
def codeOfBits (nbits w : Nat) : Except Reject Code :=
  if nbits = 16 then
    if w < 2 ^ 16 then .ok (.slot (BitVec.ofNat 16 w)) else .error (.wordTooWide 16)
  else if nbits = 8 then
    if w < 2 ^ 8 then .ok (.ctrl (BitVec.ofNat 8 w)) else .error (.wordTooWide 8)
  else .error (.noSuchFormat nbits)

/-- The instruction the decoder reads from `nbits` bits whose number is `w` (bit 0 the least significant);
none where it rejects them. -/
def decodeTableWord (nbits w : Nat) : Option Instr :=
  match codeOfBits nbits w with
  | .error _ => none
  | .ok c =>
    match decode c with
    | .error _ => none
    | .ok i => some i

/-- The encoder: the bits of an instruction by its row of R67 (slot words) or R71 (`START`). -/
def encode : Instr → Code
  | .endMessage => .slot 0xFF00
  | .emitZero => .slot 0x0000
  | .emitNear k => .slot (0xFF#8 ++ k)
  | .emitWide k => .slot (1#1 ++ k)
  | .node n => .slot (0x00#8 ++ n)
  | .rsvd k => .slot (0#1 ++ k)
  | .start r => .ctrl (r ++ 1#1)

/-- The row of the opcode table an instruction belongs to: its format's width, `match` and `mask`. -/
def rowOf : Instr → Nat × Nat × Nat
  | .endMessage => (16, 0xFF00, 0xFFFF)
  | .emitZero => (16, 0x0000, 0xFFFF)
  | .emitNear _ => (16, 0xFF00, 0xFF00)
  | .emitWide _ => (16, 0x8000, 0x8000)
  | .node _ => (16, 0x0000, 0xFF00)
  | .rsvd _ => (16, 0x0000, 0x8000)
  | .start _ => (8, 0x01, 0x01)

/-- The number of a code's bits, and the number they form, as the opcode table numbers them. -/
def bitsOfCode : Code → Nat × Nat
  | .slot w => (16, w.toNat)
  | .ctrl v => (8, v.toNat)

end Sys2Proof
end

