-- ==== Sys2Proof/Machine/Operands.lean ====
section
/-! DEFINITION. Everything the walker assembles from bits (R60, R61, R62, R70): the source bit, the slot address, the
signed slot value and its class, the emitted byte, the target node. Arithmetic is over the unbounded integers (R8). -/

namespace Sys2Proof.Machine

/-- The bit `BITNUM` selects of a byte: bit number `BITNUM - 1`, so 8 selects the most significant (R12, R40, R70). -/
def bitOf (byte : Byte) (bitnum : BitVec 4) : Bool :=
  byte.getLsbD (bitnum.toNat - 1)

/-- The logical slot address `2 n + b` of the slot that node `n` leads to on bit `b` (R60). -/
def slotAddress (n : NodeId) (b : Bool) : Nat :=
  2 * n.toNat + b.toNat

/-- The signed integer a stored word means: its two's-complement reading (R61). -/
def slotValue (w : SlotWord) : Int :=
  w.toInt

/-- The four classes of a slot value (R62). -/
inductive SlotClass where
  | endMessage
  | emit
  | node
  | rsvd
  deriving DecidableEq, Repr

/-- `class(v)`, tested in the order of R62: the sentinel first, because it also satisfies `v <= 0`. -/
def classOf (v : Int) : SlotClass :=
  if v = Config.sentinelEnd then .endMessage
  else if v ≤ 0 then .emit
  else if v ≤ 255 then .node
  else .rsvd

/-- `byte(v) = (-v) & 0xFF`: negate in the unbounded integers, then take the low 8 bits (R8, R64, R70). -/
def emittedByte (v : Int) : Byte :=
  BitVec.ofInt 8 (-v)

/-- The node a slot value of class `NODE` names (R65, R70). -/
def targetNode (v : Int) : NodeId :=
  BitVec.ofInt 8 v

/-- The class of an instruction of the opcode table; none for the host command. -/
def instrClass : Instr → Option SlotClass
  | .endMessage => some .endMessage
  | .emitZero => some .emit
  | .emitNear _ => some .emit
  | .emitWide _ => some .emit
  | .node _ => some .node
  | .rsvd _ => some .rsvd
  | .start _ => none

/-- The byte of the row `EMIT`, "zero" (R64, R69). -/
def byteOfZero : Byte :=
  emittedByte 0

/-- The byte of the row `EMIT`, "observed range": the slot value is `k - 256` (R64). -/
def byteOfNear (k : BitVec 8) : Byte :=
  emittedByte ((k.toNat : Int) - 256)

/-- The byte of the row `EMIT`, "wide": the word is `2^15 + k` and the slot value is the word less `2^16` (R64). -/
def byteOfWide (k : BitVec 15) : Byte :=
  emittedByte ((32768 + k.toNat : Int) - 65536)

/-- The byte an instruction emits, if it emits one (R64). -/
def byteOfInstr : Instr → Option Byte
  | .emitZero => some byteOfZero
  | .emitNear k => some (byteOfNear k)
  | .emitWide k => some (byteOfWide k)
  | .endMessage | .node _ | .rsvd _ | .start _ => none

end Sys2Proof.Machine
end

