-- ==== Sys2Proof/Machine/Ops.lean ====
section
/-! DEFINITION. The named operations over memory and registers: the canonical lists that hold the three spaces, the ROM
lookup, the configuration check, and the shared parts of the steps: `raise Fault`, `finish`, the common tail, storing a
byte, opening a call, reset. -/

namespace Sys2Proof.Machine

/-! ### The spaces (R30): lists of addresses and values in one canonical form -/

/-- The value at an address; `d` is what an unlisted address reads as. -/
def Memory.read {w : Nat} (d : BitVec w) : List (Nat × BitVec w) → Nat → BitVec w
  | [], _ => d
  | c :: m, a => if c.1 = a then c.2 else Memory.read d m a

/-- Write one address, keeping the list canonical: writing `d` removes the entry. -/
def Memory.write {w : Nat} (d : BitVec w) : List (Nat × BitVec w) → Nat → BitVec w → List (Nat × BitVec w)
  | [], a, v => if v = d then [] else [(a, v)]
  | c :: m, a, v =>
    if a < c.1 then if v = d then c :: m else (a, v) :: c :: m
    else if a = c.1 then if v = d then m else (a, v) :: m
    else c :: Memory.write d m a v

/-- The canonical form: addresses strictly rising, no entry equal to what an unlisted address reads as. -/
def Memory.wf {w : Nat} (d : BitVec w) : List (Nat × BitVec w) → Bool
  | [] => true
  | c :: m => c.2 != d && m.all (fun e => decide (c.1 < e.1)) && Memory.wf d m

/-- Every listed address lies below `n`. -/
def Memory.below {w : Nat} (n : Nat) (m : List (Nat × BitVec w)) : Bool :=
  m.all fun e => decide (e.1 < n)

/-- `MemRead(SRC, i, 1)` (R9, R43); the caller has checked `i < SRC_SIZE`. -/
def readSrc (s : State) (i : Nat) : Byte :=
  Memory.read Config.unlistedByte s.src i

/-- The byte of `DST` at an index (R33). -/
def readDst (s : State) (i : Nat) : Byte :=
  Memory.read Config.unlistedByte s.dst i

/-- `MemWrite(DST, i, 1, b)` (R9, R43); the caller has checked `i < DST_SIZE`. -/
def writeDst (s : State) (i : Nat) (b : Byte) : State :=
  { s with dst := Memory.write Config.unlistedByte s.dst i b }

/-- Store one byte into the host's `SRC` memory (R173); the caller has checked `i < SRC_SIZE`. -/
def writeSrc (s : State) (i : Nat) (b : Byte) : State :=
  { s with src := Memory.write Config.unlistedByte s.src i b }

/-- `ROM_word[2 n + b]` (R60, R80). -/
def romWord (rom : List (Nat × SlotWord)) (n : NodeId) (b : Bool) : SlotWord :=
  Memory.read Config.unlistedSlot rom (slotAddress n b)

/-- `next(n, b)`, the ROM's only operation: total, pure, a signed integer (R80). -/
def tableNext (rom : List (Nat × SlotWord)) (n : NodeId) (b : Bool) : Int :=
  slotValue (romWord rom n b)

/-! ### The configuration (R4, R86) -/

/-- No listed slot is of class `RSVD`. On a canonical ROM this is `WF_range`: an unlisted slot holds the sentinel. -/
def romInRange (rom : List (Nat × SlotWord)) : Bool :=
  rom.all fun e => classOf (slotValue e.2) != .rsvd

/-- Both spans fit the width: `SRC_SIZE, DST_SIZE <= 2^AW - 1` (R4). -/
def spansFit (s : State) : Bool :=
  decide (s.srcSize ≤ 2 ^ s.aw - 1) && decide (s.dstSize ≤ 2 ^ s.aw - 1)

/-- Why the model refuses the state's configuration, if it does (R4, R66, R86, D13). -/
def configRefusal (s : State) : Option Refusal :=
  if romInRange s.rom then
    if spansFit s then none else some .spanSizeOutsideWidth
  else some .tableFailsWfRange

/-! ### Registers -/

/-- The number an `AW`-bit register holds after `v` is written to it: the low `AW` bits (R8, R20; log 13). -/
def registerValue (s : State) (v : Nat) : Nat :=
  v % 2 ^ s.aw

/-- An operand register the accepted `START` needs and that holds no value, if there is one (R28). -/
def operandWithoutValue (s : State) : Option Operand :=
  if s.srcOffHeld then
    if s.srcLenHeld then
      if s.dstOffHeld then none else some .dstOff
    else some .srcLen
  else some .srcOff

/-! ### How a call ends (R157, R158) -/

/-- `raise Fault(code)`: `STATE` and `FAULT_CODE`, and nothing else of the step (R157). Only reset returns (R170). -/
def raiseFault (code : FaultCode) (s : State) : State :=
  { s with state := .fault, faultCode := code }

/-- `finish(success, n)` (R158). -/
def finish (success : Bool) (n : Nat) (s : State) : State :=
  { s with success := success, bytesWritten := n, state := .done }

/-! ### The parts of the steps -/

/-- The bit position after one more bit has been consumed: DOC0 step 2f (R104). -/
def advanceBit (s : State) : State :=
  if s.bitnum - 1 = 0 then { s with bitnum := 8, srcOff := s.srcOff + 1 }
  else { s with bitnum := s.bitnum - 1 }

/-- The exhaustion test: DOC0 step 2g (R104). -/
def endIfExhausted (s : State) : State :=
  if s.srcOff = s.endPos then finish false (s.destPos - s.dstOff) s else s

/-- The common tail of a bit step: advance, then the exhaustion test (R104). The action has already put `NODE'` and
`DEST_POS'` into the state. -/
def tail (s : State) : State :=
  endIfExhausted (advanceBit s)

/-- The action `EMIT` for the byte `b`: `DST_OVERFLOW` before the store, else store, restart at the root, tail (R106). -/
def emitByte (b : Byte) (s : State) : State :=
  if s.dstSize ≤ s.destPos then raiseFault .dstOverflow s
  else tail { writeDst s s.destPos b with destPos := s.destPos + 1, node := 0 }

/-- The three clears that open a `START` step (R101, R157). -/
def clearResults (s : State) : State :=
  { s with success := false, faultCode := .none, bytesWritten := 0 }

/-- The cursor of a fresh call (R101, DOC0 step 1): `END_POS` latches the bound (R15). -/
def openCursor (s : State) : State :=
  { s with node := 0, bitnum := 8, destPos := s.dstOff, endPos := s.srcOff + s.srcLen }

/-- The walker starts walking (R101). -/
def enterBusy (s : State) : State :=
  { s with state := .busy }

/-- The lines of the `START` step, run for an accepted `START` (R101, R160). -/
def beginCall (s : State) : State :=
  if s.srcSize < s.srcOff + s.srcLen then raiseFault .srcRange (clearResults s)
  else if s.dstSize < s.dstOff then raiseFault .dstRange (clearResults s)
  else if s.srcLen = 0 then finish false 0 (openCursor (clearResults s))
  else enterBusy (openCursor (clearResults s))

/-- Reset, an input outside the register interface: every register at its value after reset, the operand registers
with no value; the parameters, `ROM`, `SRC` and `DST` untouched (R37, R170). The cursor is unspecified and unobservable
after reset; it takes the values of `State.reset` (log 6). -/
def applyReset (s : State) : State :=
  { State.reset with
    aw := s.aw, srcSize := s.srcSize, dstSize := s.dstSize, rom := s.rom, src := s.src, dst := s.dst
    readData := s.readData, inputs := s.inputs }

end Sys2Proof.Machine
end

