-- ==== Sys2Proof/Machine/Command.lean ====
section
/-! DEFINITION. The meaning of the one host command, START (R21, R71, R101). -/

namespace Sys2Proof.Machine

/-- `START`: accepted in `IDLE` and `DONE`, ignored entirely in `BUSY` and `FAULT` (R27, R101). An accepted `START`
while an operand register holds no value is refused (R28). The bits `r` are ignored (R71). -/
def execStart (_r : BitVec 7) (s : State) : Host.Outcome State Fault Refusal :=
  match s.state with
  | .busy | .fault => .next s
  | .idle | .done =>
    match operandWithoutValue s with
    | some o => .refused (.startWithoutValue o)
    | none => .next (beginCall s)

end Sys2Proof.Machine
end

