-- ==== Sys2Proof/Machine/Slot.lean ====
section
/-! DEFINITION. The meanings of the slot instructions, the actions of a bit step: END (R105), EMIT in its three
encodings (R106), NODE (R107), RSVD (R66). The head of the bit step, which tests that a call is running and fetches the
slot, is Machine/Walker.lean (log 15). -/

namespace Sys2Proof.Machine

/-- `END`: consume the terminator's byte whole and finish complete; no tail, no store (R105). -/
def execEndMessage (s : State) : Host.Outcome State Fault Refusal :=
  .next (finish true (s.destPos - s.dstOff) { s with srcOff := s.srcOff + 1 })

/-- `EMIT` of a stored 0: the byte `0x00` is emitted; it is no silent jump to the root (R69, R106). -/
def execEmitZero (s : State) : Host.Outcome State Fault Refusal :=
  .next (emitByte byteOfZero s)

/-- `EMIT` of a value in `-255 .. -1` (R64, R106). -/
def execEmitNear (k : BitVec 8) (s : State) : Host.Outcome State Fault Refusal :=
  .next (emitByte (byteOfNear k) s)

/-- `EMIT` of a value in `-32768 .. -257` (R64, R106, D20). -/
def execEmitWide (k : BitVec 15) (s : State) : Host.Outcome State Fault Refusal :=
  .next (emitByte (byteOfWide k) s)

/-- `NODE`: descend to node `n`, then the tail; no byte is emitted (R107). -/
def execNode (n : NodeId) (s : State) : Host.Outcome State Fault Refusal :=
  .next (tail { s with node := n })

/-- `RSVD`: not a value of a table of this hardware; the configuration is refused and there is no step (R66, R86, D13). -/
def execRsvd (_k : BitVec 15) (_s : State) : Host.Outcome State Fault Refusal :=
  .refused .tableFailsWfRange

end Sys2Proof.Machine
end

