-- ==== Sys2Proof/Machine/Dispatch.lean ====
section
/-! DEFINITION. One arm per constructor of Instr, one direct call of its meaning each. -/

namespace Sys2Proof.Machine

/-- What an instruction does to the state. -/
def exec (i : Instr) (s : State) : Host.Outcome State Fault Refusal :=
  match i with
  | .endMessage => Sys2Proof.Machine.execEndMessage s
  | .emitZero => Sys2Proof.Machine.execEmitZero s
  | .emitNear k => Sys2Proof.Machine.execEmitNear k s
  | .emitWide k => Sys2Proof.Machine.execEmitWide k s
  | .node n => Sys2Proof.Machine.execNode n s
  | .rsvd k => Sys2Proof.Machine.execRsvd k s
  | .start r => Sys2Proof.Machine.execStart r s

end Sys2Proof.Machine
end

