-- ==== Sys2Proof/Machine/Walker.lean ====
section
/-! DEFINITION. The walker's move: the head of the bit step (R102), which fetches a slot word from the ROM by the node
and the next source bit, and the run of the instruction it decodes to. -/

namespace Sys2Proof.Machine

/-- The next source bit (R12, R70). -/
def sourceBit (s : State) : Bool :=
  bitOf (readSrc s s.srcOff) s.bitnum

/-- `1 <= BITNUM <= 8` (R12). -/
def bitnumLegal (b : BitVec 4) : Bool :=
  decide (1 ≤ b.toNat) && decide (b.toNat ≤ 8)

/-- The head of the bit step: read one source byte, pick its bit, look the slot up (R43, R102). The two faults are for
states that no call reaches (R136; log 14). -/
def fetchSlot (s : State) : Except Fault SlotWord :=
  if s.srcOff < s.srcSize then
    if bitnumLegal s.bitnum then .ok (romWord s.rom s.node (sourceBit s))
    else .error (.bitnumOutOfRange s.bitnum)
  else .error (.srcReadOutsideSpan s.srcOff)

/-- The bit step: fetch, decode, run (R102). -/
def bitStep (s : State) : Host.Outcome State Fault Refusal :=
  match fetchSlot s with
  | .error f => .fault f
  | .ok w => exec (decodeSlot w) s

/-- The walker moves: a bit step exactly when `STATE = BUSY`; otherwise it waits (R100). -/
def walk (s : State) : Host.Outcome State Fault Refusal :=
  match s.state with
  | .busy => bitStep s
  | .idle | .done | .fault => .next s

end Sys2Proof.Machine
end

