-- ==== Sys2Proof/Machine/HostPort.lean ====
section
/-! DEFINITION. The host's moves: register writes and reads by state (R20, R27, R28), stores into its own buffers (R173,
R176), reset (R170). A write to `CTRL` with bit 0 set is the instruction START and runs through `exec`. -/

namespace Sys2Proof.Machine

/-- What a host read of a register gives. -/
inductive ReadAnswer where
  /-- The register's value. -/
  | value (v : Nat)
  /-- The register holds no value: the read is refused (R28). -/
  | noValue (r : Operand)
  deriving DecidableEq, Repr

/-- The value of an operand register, or that it holds none (R28). -/
def answerOperand (held : Bool) (r : Operand) (v : Nat) : ReadAnswer :=
  if held then .value v else .noValue r

/-- A host read of register `n`, by state (R20, R22, R27): `CTRL` and the registers that do not exist read 0. -/
def readRegister (n : Nat) (s : State) : ReadAnswer :=
  match n with
  | 1 => .value (statusByte s).toNat
  | 2 => answerOperand s.srcOffHeld .srcOff s.srcOff
  | 3 => answerOperand s.srcLenHeld .srcLen s.srcLen
  | 4 => answerOperand s.dstOffHeld .dstOff s.dstOff
  | 5 => .value (bytesWrittenRead s)
  | _ => .value 0

/-- The host may write the operand registers: `IDLE` or `DONE` (R27). -/
def operandsWritable (s : State) : Bool :=
  match s.state with
  | .idle | .done => true
  | .busy | .fault => false

/-- A host write of `v` to a register other than `CTRL`: the operand registers in `IDLE` and `DONE`; every other write is
ignored (R20, R27). -/
def writeOperand (n v : Nat) (s : State) : State :=
  if operandsWritable s then
    match n with
    | 2 => { s with srcOff := registerValue s v, srcOffHeld := true }
    | 3 => { s with srcLen := registerValue s v, srcLenHeld := true }
    | 4 => { s with dstOff := registerValue s v, dstOffHeld := true }
    | _ => s
  else s

/-- A host write of `v` to `CTRL`: the low 8 bits decode to a command, or have no effect (R21, R71). -/
def writeCtrl (v : Nat) (s : State) : Host.Outcome State Fault Refusal :=
  match decodeCtrl (BitVec.ofNat 8 v) with
  | .error _ => .next s
  | .ok i => exec i s

/-- Whether the host owns the `SRC` and `DST` bytes: it does in `IDLE` and `DONE`, the walker does in `BUSY` (R30, R163,
U4), and in `FAULT` nobody may change anything (R163, R180). The refusal is of a store to index `i`. -/
def storeRefusal (i : Nat) (s : State) : Option Refusal :=
  match s.state with
  | .idle | .done => none
  | .busy => some (.hostStoreDuringCall i)
  | .fault => some (.hostStoreInFault i)

/-- A store of the host into its `SRC` memory (R30, R173, R176; log 12). -/
def hostStoreSrc (i : Nat) (b : Byte) (s : State) : Host.Outcome State Fault Refusal :=
  if i < s.srcSize then
    match storeRefusal i s with
    | some r => .refused r
    | none => .next (writeSrc s i b)
  else .fault (.hostStoreOutsideSpan i)

/-- A store of the host into its `DST` memory (R33, R163, R176; log 12). -/
def hostStoreDst (i : Nat) (b : Byte) (s : State) : Host.Outcome State Fault Refusal :=
  if i < s.dstSize then
    match storeRefusal i s with
    | some r => .refused r
    | none => .next (writeDst s i b)
  else .fault (.hostStoreOutsideSpan i)

/-- One move of the host, or of the walker where the host leaves the step to it (log 8). -/
def hostMove (op : HostOp) (s : State) : Host.Outcome State Fault Refusal :=
  match op with
  | .writeReg n v => if n = 0 then writeCtrl v s else .next (writeOperand n v s)
  | .readReg n =>
    match readRegister n s with
    | .value v => .next { s with readData := some v }
    | .noValue r => .refused (.readWithoutValue r)
  | .storeSrc i b => hostStoreSrc i b s
  | .storeDst i b => hostStoreDst i b s
  | .reset => .next (applyReset s)
  | .idle => walk s

/-- The next move: the host's, taken off `inputs`; the walker's where no host move is left. -/
def nextMove (s : State) : Host.Outcome State Fault Refusal :=
  match s.inputs with
  | [] => walk s
  | op :: rest => hostMove op { s with inputs := rest }

end Sys2Proof.Machine
end

