-- ==== Sys2Proof/Machine/Place.lean ====
section
/-! DEFINITION. Where the next step fetches its instruction: a slot word from the ROM slot that the node and the next
source bit select, a command from the host's next write to `CTRL`. Used only by `State.withFetchWord` (log 18). -/

namespace Sys2Proof.Machine

/-- The state is in a call whose next bit step can fetch (R136). -/
def canFetch (s : State) : Bool :=
  decide (s.state = .busy) && decide (s.srcOff < s.srcSize) && decide (s.srcOff < s.endPos) && bitnumLegal s.bitnum

/-- A call of one source byte, just begun: what R101 leaves after `SRC_OFF = 0`, `SRC_LEN = 1`, `DST_OFF = 0`. -/
def callOfOneByte (s : State) : State :=
  { s with
    srcSize := max s.srcSize 1
    srcOff := 0, srcLen := 1, dstOff := 0, srcOffHeld := true, srcLenHeld := true, dstOffHeld := true
    node := 0, bitnum := 8, destPos := 0, endPos := 1
    state := .busy, success := false, faultCode := .none, bytesWritten := 0 }

/-- Put a slot word where the next bit step looks, the host leaving that step to the walker. -/
def placeSlot (w : SlotWord) (s : State) : State :=
  let c := if canFetch s then s else callOfOneByte s
  { c with
    rom := Memory.write Config.unlistedSlot c.rom (slotAddress c.node (sourceBit c)) w
    inputs := .idle :: c.inputs }

/-- The host's next move writes `v` to `CTRL`; an operand register with no value is given the number it holds, as R173
asks of the host before a `START`. -/
def placeCtrl (v : Byte) (s : State) : State :=
  { s with
    srcOffHeld := true, srcLenHeld := true, dstOffHeld := true
    inputs := .writeReg 0 v.toNat :: s.inputs }

/-- The bits of a numbered instruction of the opcode table, placed where the next step fetches. -/
def placeBits (nbits w : Nat) (s : State) : State :=
  match codeOfBits nbits w with
  | .error _ => s
  | .ok (.slot x) => placeSlot x s
  | .ok (.ctrl v) => placeCtrl v s

end Sys2Proof.Machine
end

