-- ==== Sys2Proof/Machine/Step.lean ====
section
/-! DEFINITION. One step of the machine: the configuration check (R4, R86), then the next move. -/

namespace Sys2Proof.Machine

/-- One step: refuse a configuration that is none of this hardware's (R4, R66, R86), else the next move of the host or of
the walker (R6, R100). -/
def step (s : State) : Host.Outcome State Fault Refusal :=
  match configRefusal s with
  | some r => .refused r
  | none => nextMove s

/-- `s` with the instruction of `nbits` bits numbered `w` placed where `step` fetches its next one (log 18). -/
def State.withFetchWord (s : State) (nbits w : Nat) : State :=
  placeBits nbits w s

end Sys2Proof.Machine
end

