-- ==== Sys2Proof/Machine/Instances.lean ====
section
/-! DEFINITION. Several instances of the block (R4, R53, R82, R166): each has its own registers, cursor, `SRC` and `DST`;
all read one `TABLE`; nothing orders them, so the instance that moves next is named from outside. -/

namespace Sys2Proof.Machine

/-- `N_INST` instances, each with its own `AW`, `SRC_SIZE` and `DST_SIZE` (DESIGN CHOICE, log 28). -/
structure System where
  insts : List State
  deriving DecidableEq, Repr

/-- `N_INST` (R4). -/
def System.count (y : System) : Nat :=
  y.insts.length

/-- The instances share one `TABLE` (R166). R4 does not say whether `AW`, `SRC_SIZE` and `DST_SIZE` are one value for all
of them; nothing here asks that they agree (DESIGN CHOICE, log 28). -/
def System.sharesTable (y : System) : Prop :=
  ∀ a ∈ y.insts, ∀ b ∈ y.insts, a.rom = b.rom

/-- Instance `k` takes one step and no other instance changes (R82, R166). An instance that does not exist takes none. -/
def System.stepAt (y : System) (k : Nat) : Host.Outcome System Fault Refusal :=
  match y.insts[k]? with
  | none => .next y
  | some s =>
    match step s with
    | .next t => .next { insts := y.insts.set k t }
    | .fault f => .fault f
    | .refused r => .refused r

/-- The system after reset, with the default number of instances (R4, R166). -/
def System.reset : System :=
  { insts := List.replicate Config.defaultInstances State.reset }

end Sys2Proof.Machine
end

