-- ==== Sys2Proof/Machine/Table.lean ====
section
/-! DEFINITION. The predicates of the decode table (R84 to R89), codewords and messages (R72 to R74). None of them but
`WF_range` is a premise of the model (R86, D13). -/

namespace Sys2Proof.Machine

/-- `WF_range(TABLE)`: no slot of the 512 is of class `RSVD` (R86). -/
def WfRange (rom : List (Nat × SlotWord)) : Prop :=
  ∀ (n : NodeId) (b : Bool), -32768 ≤ tableNext rom n b ∧ tableNext rom n b ≤ 255

/-- The edge `n -> TABLE[n][b]` of the graph `G`, for a slot of class `NODE` (R85). -/
def NodeEdge (rom : List (Nat × SlotWord)) (n : NodeId) (b : Bool) (m : NodeId) : Prop :=
  classOf (tableNext rom n b) = .node ∧ targetNode (tableNext rom n b) = m

/-- The nodes reachable from the root (R85). -/
inductive Reachable (rom : List (Nat × SlotWord)) : NodeId → Prop where
  | root : Reachable rom 0
  | step {n m : NodeId} {b : Bool} : Reachable rom n → NodeEdge rom n b m → Reachable rom m

/-- A path of one or more edges of `G` (R85). -/
inductive NodePath (rom : List (Nat × SlotWord)) : NodeId → NodeId → Prop where
  | edge {n m : NodeId} {b : Bool} : NodeEdge rom n b m → NodePath rom n m
  | cons {n m k : NodeId} {b : Bool} : NodeEdge rom n b m → NodePath rom m k → NodePath rom n k

/-- `WF_tree(TABLE)`, its three clauses (R85). -/
structure WfTree (rom : List (Nat × SlotWord)) : Prop where
  /-- Clause 1: every slot has a class other than `RSVD`. -/
  inRange : WfRange rom
  /-- Clause 2: no node is the target of two different slots of reachable nodes, and the root of none. -/
  oneParent : ∀ {n m k : NodeId} {b c : Bool}, Reachable rom n → Reachable rom m →
    NodeEdge rom n b k → NodeEdge rom m c k → n = m ∧ b = c
  noneToRoot : ∀ {n : NodeId} {b : Bool}, Reachable rom n → ¬ NodeEdge rom n b 0
  /-- Clause 3: the reachable part has no cycle. -/
  acyclic : ∀ {n : NodeId}, Reachable rom n → ¬ NodePath rom n n

/-- `WF_end(TABLE)`: some slot of a reachable node holds the sentinel (R89). -/
def WfEnd (rom : List (Nat × SlotWord)) : Prop :=
  ∃ (n : NodeId) (b : Bool), Reachable rom n ∧ tableNext rom n b = Config.sentinelEnd

/-- `ScenarioPath(TABLE)`: the five slots of DOC0's concrete scenario (R84). A hypothesis to name, never a premise. -/
def ScenarioPath (rom : List (Nat × SlotWord)) : Prop :=
  tableNext rom 0 true = 1 ∧ tableNext rom 1 true = 3 ∧ tableNext rom 3 true = 6 ∧ tableNext rom 6 false = 12 ∧
    tableNext rom 12 true = -1

/-- The slot value at which the bits end, if they are exactly one codeword from node `n`: every slot on the way is of
class `NODE` and the last is not (R72). -/
def leafOf (rom : List (Nat × SlotWord)) : NodeId → List Bool → Option Int
  | _, [] => none
  | n, b :: rest =>
    if classOf (tableNext rom n b) = .node then leafOf rom (targetNode (tableNext rom n b)) rest
    else if rest = [] then some (tableNext rom n b) else none

/-- The bits are the codeword of the byte `x`: a codeword whose leaf is of class `EMIT` with that byte (R72, R144). -/
def IsByteCodeword (rom : List (Nat × SlotWord)) (bits : List Bool) (x : Byte) : Prop :=
  ∃ v, leafOf rom 0 bits = some v ∧ classOf v = .emit ∧ emittedByte v = x

/-- The bits are the sentinel's codeword (R72). -/
def IsEndCodeword (rom : List (Nat × SlotWord)) (bits : List Bool) : Prop :=
  leafOf rom 0 bits = some Config.sentinelEnd

/-- The eight bits of a byte in the order they are consumed, most significant first (R40). -/
def bitsOfByte (x : Byte) : List Bool :=
  [x.getLsbD 7, x.getLsbD 6, x.getLsbD 5, x.getLsbD 4, x.getLsbD 3, x.getLsbD 2, x.getLsbD 1, x.getLsbD 0]

/-- The bits of `SRC[off .. off + len)` in the order they are consumed (R40, R72). -/
def windowBits (src : List Host.Cell) (off : Nat) : Nat → List Bool
  | 0 => []
  | len + 1 => bitsOfByte (Memory.read Config.unlistedByte src off) ++ windowBits src (off + 1) len

/-- The bits of a message: the codewords of its bytes, then the sentinel's (R72). -/
def messageBits (codewords : List (List Bool)) (sentinel : List Bool) : List Bool :=
  codewords.flatten ++ sentinel

end Sys2Proof.Machine
end

