-- ==== Sys2Proof/Machine/Reference.lean ====
section
/-! DEFINITION. `Decompress`, the reference function of a whole call (R130), written from its pseudocode and not from the
step: it looks slots up by value and never decodes an instruction. -/

namespace Sys2Proof.Machine

/-- What a call ends with (R130, R134): the outcome, `SRC_OFF`, and the bytes of `DST`. -/
inductive CallResult where
  /-- `Done(success, n, srcOff)`. -/
  | done (success : Bool) (n srcOff : Nat) (dst : List Host.Cell)
  /-- `Fault(code)`; `SRC_OFF` as R134 has it. -/
  | fault (code : FaultCode) (srcOff : Nat) (dst : List Host.Cell)
  /-- No result: the call reads a slot of class `RSVD`, whose value R66 gives no step (DESIGN CHOICE, log 27). -/
  | outsideRange
  deriving DecidableEq, Repr

/-- What `Decompress` takes besides the cursor: `TABLE`, `SRC`, `DST_SIZE`, `doff` and `end`. -/
structure CallInput where
  rom : List (Nat × SlotWord)
  src : List Host.Cell
  dstSize : Nat
  dstOff : Nat
  endPos : Nat
  deriving DecidableEq, Repr

/-- The local variables of `Decompress`. -/
structure CallCursor where
  node : NodeId
  bitNum : Nat
  destPos : Nat
  srcOff : Nat
  dst : List Host.Cell
  deriving DecidableEq, Repr

/-- Line 2a: `b <- (SRC[srcOff] >> (bitNum - 1)) & 1`. -/
def CallCursor.bit (c : CallCursor) (x : CallInput) : Bool :=
  decide ((Memory.read Config.unlistedByte x.src c.srcOff).toNat >>> (c.bitNum - 1) &&& 1 = 1)

/-- Line 2f: the cursor after one more bit. -/
def CallCursor.advance (c : CallCursor) : CallCursor :=
  if c.bitNum - 1 = 0 then { c with bitNum := 8, srcOff := c.srcOff + 1 } else { c with bitNum := c.bitNum - 1 }

/-- The loop of `Decompress`, by the bits that are left. A slot value of 256 or more, for which the pseudocode's
`node <- v` names no entry of the table, ends it without a result (DESIGN CHOICE, log 27); no table within `WF_range`
holds one (R86). -/
def decompressLoop (x : CallInput) : Nat → CallCursor → CallResult
  | 0, c => .done false 0 c.srcOff c.dst
  | bitsLeft + 1, c =>
    if c.srcOff < x.endPos then
      let v := tableNext x.rom c.node (c.bit x)
      if v = -256 then .done true (c.destPos - x.dstOff) (c.srcOff + 1) c.dst
      else if v ≤ 0 ∧ x.dstSize ≤ c.destPos then .fault .dstOverflow c.srcOff c.dst
      else if 255 < v then .outsideRange
      else
        let c' : CallCursor :=
          if v ≤ 0 then
            { c with dst := Memory.write Config.unlistedByte c.dst c.destPos (BitVec.ofInt 8 (-v))
                     destPos := c.destPos + 1, node := 0 }
          else { c with node := BitVec.ofInt 8 v }
        let c'' := c'.advance
        if c''.srcOff = x.endPos then .done false (c''.destPos - x.dstOff) c''.srcOff c''.dst
        else decompressLoop x bitsLeft c''
    else .done false 0 c.srcOff c.dst

/-- `Decompress(TABLE, SRC, off0, len, DST, doff)` with the two sizes (R130). -/
def decompress (rom : List (Nat × SlotWord)) (src : List Host.Cell) (srcSize off0 len : Nat)
    (dst : List Host.Cell) (dstSize doff : Nat) : CallResult :=
  if srcSize < off0 + len then .fault .srcRange off0 dst
  else if dstSize < doff then .fault .dstRange off0 dst
  else
    decompressLoop { rom := rom, src := src, dstSize := dstSize, dstOff := doff, endPos := off0 + len } (8 * len)
      { node := 0, bitNum := 8, destPos := doff, srcOff := off0, dst := dst }

/-- The call a state's operand registers ask for. -/
def decompressOf (s : State) : CallResult :=
  decompress s.rom s.src s.srcSize s.srcOff s.srcLen s.dst s.dstSize s.dstOff

end Sys2Proof.Machine
end

