-- ==== Sys2Proof/Safety.lean ====
section
/-! DEFINITION. What counts as a safe run: the invariant of the machine (R8, R22, R26, R136, R138 and the canonical form
of the spaces), when a run has ended (R175), and the terms the statements use. -/

namespace Sys2Proof

open Sys2Proof.Machine

/-- `off0` of the running call: `END_POS - SRC_LEN`, neither of which moves during it (R15, R24, R136). -/
def callStart (s : State) : Nat :=
  s.endPos - s.srcLen

/-- The number of bit steps the running call has taken (R136 item 5). -/
def bitStepsTaken (s : State) : Nat :=
  8 * (s.srcOff - callStart s) + (8 - s.bitnum.toNat)

/-- What holds between the steps of a call (R136). -/
structure BusyInv (s : State) : Prop where
  /-- `off0 + len` is `END_POS`. -/
  window : s.srcLen ≤ s.endPos
  /-- Item 1, lower half. -/
  startLe : callStart s ≤ s.srcOff
  /-- Item 1, upper half: the loop guard (R103). -/
  guard : s.srcOff < s.endPos
  /-- Item 1: the bound lies inside the span. -/
  inSpan : s.endPos ≤ s.srcSize
  /-- Item 2. -/
  bitnumPos : 1 ≤ s.bitnum.toNat
  /-- Item 2. -/
  bitnumLe : s.bitnum.toNat ≤ 8
  /-- Item 4. -/
  destLow : s.dstOff ≤ s.destPos
  /-- Item 4. -/
  destHigh : s.destPos ≤ s.dstSize
  /-- Item 6: at most one byte per bit step. -/
  destCount : s.destPos - s.dstOff ≤ bitStepsTaken s
  /-- `START` has cleared the results (R101). -/
  noBytes : s.bytesWritten = 0
  /-- A call runs only on operands that hold values (R28). -/
  held : s.srcOffHeld = true ∧ s.srcLenHeld = true ∧ s.dstOffHeld = true

/-- The three spaces are in canonical form and hold nothing outside themselves (R30). -/
structure SpacesInv (s : State) : Prop where
  romWf : Memory.wf Config.unlistedSlot s.rom = true
  romBelow : Memory.below (Config.nodes * Config.slots) s.rom = true
  srcWf : Memory.wf Config.unlistedByte s.src = true
  srcBelow : Memory.below s.srcSize s.src = true
  dstWf : Memory.wf Config.unlistedByte s.dst = true
  dstBelow : Memory.below s.dstSize s.dst = true

/-- Every `AW`-bit register fits its width (R8, R138); `DEST_POS` and `END_POS` are spoken of in `BUSY` only (R16). -/
structure WidthInv (s : State) : Prop where
  srcOff : s.srcOff < 2 ^ s.aw
  destPos : s.state = .busy → s.destPos < 2 ^ s.aw
  endPos : s.state = .busy → s.endPos < 2 ^ s.aw
  srcLen : s.srcLen < 2 ^ s.aw
  dstOff : s.dstOff < 2 ^ s.aw
  bytesWritten : s.bytesWritten < 2 ^ s.aw

/-- The fields of `STATUS` and `BYTES_WRITTEN` agree with `STATE` (R22, R26, D19). -/
structure StatusInv (s : State) : Prop where
  faultCode : s.faultCode ≠ .none ↔ s.state = .fault
  success : s.success = true → s.state = .done
  bytesWritten : s.state ≠ .done → s.bytesWritten = 0
  bytesFit : s.bytesWritten ≤ s.dstSize

/-- The invariant of the machine: it holds at reset and every step keeps it. -/
structure Inv (s : State) : Prop where
  config : configRefusal s = none
  spaces : SpacesInv s
  width : WidthInv s
  status : StatusInv s
  busy : s.state = .busy → BusyInv s

/-- The state without what R16 gives no meaning: outside `BUSY` the four cursor registers are all taken for the same values,
so that two states differ here only where the spec lets a claim tell them apart. -/
def live (s : State) : State :=
  match s.state with
  | .busy => s
  | .idle | .done | .fault => { s with node := 0, bitnum := 8, destPos := 0, endPos := 0 }

/-- The outcome is a next state that agrees with `t` in everything that has a meaning (R16). -/
def Gives (o : Host.Outcome State Fault Refusal) (t : State) : Prop :=
  ∃ u, o = .next u ∧ live u = live t

/-- `k` steps of the machine, stopping at the first fault or refusal. -/
def runFor (k : Nat) (s : State) : Host.Outcome State Fault Refusal :=
  Host.Core.run Sys2Proof.core k s

/-- The run has ended (R175): `DONE` or `FAULT`. -/
def Ended (s : State) : Prop :=
  s.state = .done ∨ s.state = .fault

/-- The run's end is final (R175): a run that ends in `FAULT` has gone wrong and is never final. -/
def Final (s : State) : Prop :=
  s.state = .done

/-- The host has done what R173 asks before a `START`, and its next move is that `START`, any value of `CTRL` with bit 0 set
(R21, R71); after it the host is silent. -/
structure ReadyToStart (s : State) : Prop where
  config : configRefusal s = none
  ready : s.state = .idle ∨ s.state = .done
  held : s.srcOffHeld = true ∧ s.srcLenHeld = true ∧ s.dstOffHeld = true
  start : ∃ v, v < 256 ∧ v % 2 = 1 ∧ s.inputs = [.writeReg 0 v]

/-- The call that `s` is ready to start ends in `t` after `k` steps: the `START` step and at most `8 * SRC_LEN` bit steps, in
`BUSY` between them; `t` is the first state after `START` in which `STATE` is `DONE` or `FAULT` (R130, R137, R175). -/
structure CallEndsAt (s : State) (k : Nat) (t : State) : Prop where
  startStep : 1 ≤ k
  bound : k ≤ 8 * s.srcLen + 1
  run : runFor k s = .next t
  ended : Ended t
  first : ∀ j u, 1 ≤ j → j < k → runFor j s = .next u → u.state = .busy

/-- The registers and the bytes of `DST` that a call leaves are those of a result of `Decompress` (R130, R134); no call
leaves the missing result of a table outside `WF_range`, whose configuration the machine refuses (log 11, log 27). -/
def Leaves (t : State) : CallResult → Prop
  | .done success n srcOff dst =>
    t.state = .done ∧ t.success = success ∧ t.faultCode = .none ∧ t.bytesWritten = n ∧ t.srcOff = srcOff ∧ t.dst = dst
  | .fault code srcOff dst =>
    t.state = .fault ∧ t.success = false ∧ t.faultCode = code ∧ t.bytesWritten = 0 ∧ t.srcOff = srcOff ∧ t.dst = dst
  | .outsideRange => False

end Sys2Proof
end

