-- ==== Sys2Proof/Certificates/Slice0/Obligations.lean ====
section
/-! DEFINITION. The statements for the provers, from the numbered rules of the spec. Each docstring names the rule. The
host's moves stand in `State.inputs` (log 8). No statement says what `NODE`, `BITNUM`, `DEST_POS` or `END_POS` hold outside
`BUSY` (R16): `Gives o t` says that the outcome `o` is a next state that agrees with `t` in all else. -/

open Sys2Proof Sys2Proof.Machine

/-! ### Encodings (30_encoding.md) -/

/-- The sample words of 95_test_vectors.md section 3.1 and the `CTRL` values of section 3.7 decode as listed there. -/
def Obligations.SampleWordsDecode : Prop :=
  decodeSlot 0xFF00 = .endMessage ∧ decodeSlot 0x0000 = .emitZero ∧ decodeSlot 0xFFFF = .emitNear 0xFF ∧
  decodeSlot 0xFFBF = .emitNear 0xBF ∧ decodeSlot 0xFF01 = .emitNear 0x01 ∧ decodeSlot 0xFEFF = .emitWide 0x7EFF ∧
  decodeSlot 0x8000 = .emitWide 0x0000 ∧ decodeSlot 0x0001 = .node 0x01 ∧ decodeSlot 0x00FF = .node 0xFF ∧
  decodeSlot 0x0100 = .rsvd 0x0100 ∧ decodeSlot 0x7FFF = .rsvd 0x7FFF ∧
  decode (.ctrl 0xFF) = .ok (.start 0x7F) ∧ decode (.ctrl 0x01) = .ok (.start 0x00) ∧
  decode (.ctrl 0xFE) = .error .startBitClear

/-- Decoding the encoding of a well-formed instruction gives it back, with every operand at every value. -/
def Obligations.DecodeOfEncodeIsTheInstruction : Prop :=
  ∀ i : Instr, i.wellFormed = true → decode (encode i) = .ok i

/-- R67: the six rows partition the 65536 words: each word has exactly one well-formed instruction, that of the decoder. -/
def Obligations.RowsPartitionTheSlotWords : Prop :=
  ∀ w : SlotWord, (decodeSlot w).wellFormed = true ∧ encode (decodeSlot w) = .slot w ∧
    ∀ i : Instr, i.wellFormed = true → encode i = .slot w → i = decodeSlot w

/-- R61: the two's-complement reading of a stored word. -/
def Obligations.SlotWordReadsTwosComplement : Prop :=
  ∀ w : SlotWord,
    (w.toNat ≤ 0x7FFF → slotValue w = w.toNat) ∧ (0x8000 ≤ w.toNat → slotValue w = (w.toNat : Int) - 65536)

/-- R62: the class of every slot value, in the order of its tests; the decoder gives an instruction of that class. -/
def Obligations.EverySlotWordHasItsClass : Prop :=
  ∀ w : SlotWord,
    (instrClass (decodeSlot w) = some .endMessage ↔ slotValue w = -256) ∧
    (instrClass (decodeSlot w) = some .emit ↔ slotValue w ≠ -256 ∧ slotValue w ≤ 0) ∧
    (instrClass (decodeSlot w) = some .node ↔ 1 ≤ slotValue w ∧ slotValue w ≤ 255) ∧
    (instrClass (decodeSlot w) = some .rsvd ↔ 256 ≤ slotValue w)

/-- R64: a terminal emits `(-v) & 0xFF`, by the same action whichever of its three rows it is in, and every byte is the
operand of exactly one value in `-255 .. 0`. -/
def Obligations.TerminalEmitsItsNegatedValue : Prop :=
  (∀ w : SlotWord, slotValue w ≤ 0 → slotValue w ≠ -256 →
    ∃ b, byteOfInstr (decodeSlot w) = some b ∧ (b.toNat : Int) = (-slotValue w) % 256 ∧
      ∀ s : State, s.state = .busy → Gives (exec (decodeSlot w) s) (emitByte b s)) ∧
  (slotValue 0x0000 = 0 ∧ byteOfInstr (decodeSlot 0x0000) = some 0x00) ∧
  ∀ b : Byte, ∃ v : Int, (-255 ≤ v ∧ v ≤ 0 ∧ emittedByte v = b) ∧
    ∀ v' : Int, -255 ≤ v' → v' ≤ 0 → emittedByte v' = b → v' = v

/-- R65: a value `1 .. 255` is an internal node whose target is the value itself; node 0 is never a target. -/
def Obligations.InternalNodeNamesItsTarget : Prop :=
  (∀ w : SlotWord, 1 ≤ slotValue w → slotValue w ≤ 255 →
    ∃ n : NodeId, decodeSlot w = .node n ∧ (n.toNat : Int) = slotValue w) ∧
  ∀ w : SlotWord, decodeSlot w ≠ .node 0

/-- R60: slot addresses `2 n + b` run over `0 .. 511`, one for each node and bit. -/
def Obligations.SlotAddressesAreTheFirst512 : Prop :=
  (∀ (n : NodeId) (b : Bool), slotAddress n b ≤ 511) ∧
  (∀ (n m : NodeId) (b c : Bool), slotAddress n b = slotAddress m c → n = m ∧ b = c) ∧
  ∀ a : Nat, a ≤ 511 → ∃ (n : NodeId) (b : Bool), slotAddress n b = a

/-- R80: the lookup is total on `256 x 2` arguments and gives the sign-extended word at the slot address. -/
def Obligations.LookupGivesTheSignedSlotWord : Prop :=
  ∀ (rom : List (Nat × SlotWord)) (n : NodeId) (b : Bool),
    tableNext rom n b = (Memory.read Config.unlistedSlot rom (2 * n.toNat + b.toNat)).toInt ∧
    -32768 ≤ tableNext rom n b ∧ tableNext rom n b ≤ 32767

/-- R86, R66: a configuration whose table fails `WF_range` is refused at every step; one whose table (in canonical form)
satisfies it is never refused for its table (that the check stands at every step is the model's, log 11). -/
def Obligations.TableOutsideRangeIsRefused : Prop :=
  (∀ s : State, ¬ WfRange s.rom → step s = .refused .tableFailsWfRange) ∧
  ∀ s : State, Memory.wf Config.unlistedSlot s.rom = true → Memory.below 512 s.rom = true → WfRange s.rom →
    step s ≠ .refused .tableFailsWfRange

/-- R73: no codeword of a table is a proper beginning of another. -/
def Obligations.CodewordsArePrefixFree : Prop :=
  ∀ (rom : List (Nat × SlotWord)) (bits more : List Bool) (v v' : Int),
    leafOf rom 0 bits = some v → leafOf rom 0 (bits ++ more) = some v' → more = [] ∧ v' = v

/-- R85 clause 3, R88: in a tree, every walk from the root meets a terminal or the sentinel after at most 256 bits. -/
def Obligations.TreeWalksEndWithin256Bits : Prop :=
  ∀ rom : List (Nat × SlotWord), WfTree rom → ∀ bits : List Bool, 256 ≤ bits.length →
    ∃ k v, k ≤ 256 ∧ leafOf rom 0 (bits.take k) = some v ∧ (classOf v = .emit ∨ classOf v = .endMessage)

/-- R84 item 5, V1: in every table with `ScenarioPath` the bits 1 1 1 0 1 are the codeword of the byte `0x01`. -/
def Obligations.ScenarioPathIsACodewordOfOne : Prop :=
  ∀ rom : List (Nat × SlotWord), ScenarioPath rom → IsByteCodeword rom [true, true, true, false, true] 0x01

/-! ### Reset and the registers (10_state.md, 70_reset_and_hazards.md) -/

/-- R37: the values the spec gives for reset, in `State.reset` and after the reset input. -/
def Obligations.ResetGivesTheSpecValues : Prop :=
  (∀ s : State, s = State.reset ∨ (∃ u, s = applyReset u) →
    s.state = .idle ∧ s.success = false ∧ s.faultCode = .none ∧ s.bytesWritten = 0 ∧ readRegister 0 s = .value 0 ∧
    s.srcOffHeld = false ∧ s.srcLenHeld = false ∧ s.dstOffHeld = false) ∧
  ∀ u : State, (applyReset u).rom = u.rom ∧ (applyReset u).src = u.src ∧ (applyReset u).dst = u.dst

/-- R170: reset may be applied in any state, abandons a running call without any outcome, leaves `ROM`, `SRC` and `DST`
alone, and is the only exit from `FAULT`. -/
def Obligations.ResetInAnyStateAndOnlyExitFromFault : Prop :=
  (∀ (s : State) (rest : List HostOp), configRefusal s = none → s.inputs = .reset :: rest →
    ∃ t, step s = .next t ∧ t.state = .idle ∧ t.success = false ∧ t.faultCode = .none ∧ t.bytesWritten = 0 ∧
      t.srcOffHeld = false ∧ t.srcLenHeld = false ∧ t.dstOffHeld = false ∧
      t.rom = s.rom ∧ t.src = s.src ∧ t.dst = s.dst ∧ t.aw = s.aw ∧ t.srcSize = s.srcSize ∧ t.dstSize = s.dstSize ∧
      t.inputs = rest) ∧
  ∀ s t : State, s.state = .fault → step s = .next t → t.state ≠ .fault → ∃ rest, s.inputs = .reset :: rest

/-- R22: the layout of `STATUS`; `SUCCESS` reads 0 outside `DONE`, and under the invariant `FAULT_CODE` is non-zero exactly
in `FAULT`. -/
def Obligations.StatusRegisterLayout : Prop :=
  (∀ s : State,
    ((statusByte s).extractLsb' 0 2).toNat =
      (match s.state with | .idle => 0 | .busy => 1 | .done => 2 | .fault => 3) ∧
    (statusByte s).getLsbD 2 = (decide (s.state = .done) && s.success) ∧
    (statusByte s).getLsbD 3 = false ∧
    ((statusByte s).extractLsb' 4 3).toNat =
      (if s.state = .fault then
        match s.faultCode with | .none => 0 | .srcRange => 1 | .dstRange => 2 | .dstOverflow => 3
      else 0) ∧
    (statusByte s).getLsbD 7 = false) ∧
  ∀ s : State, StatusInv s → ((statusByte s).extractLsb' 4 3 ≠ 0 ↔ s.state = .fault)

/-- R20, R27, R28: what a host read of each register returns, in every state; registers 6 and above read 0; a register that
holds no value is refused. Nothing else changes. -/
def Obligations.HostReadsByRegisterAndState : Prop :=
  ∀ (s : State) (n : Nat) (rest : List HostOp), configRefusal s = none → s.inputs = .readReg n :: rest →
    ((n = 0 ∨ 6 ≤ n) → Gives (step s) { s with inputs := rest, readData := some 0 }) ∧
    (n = 1 → Gives (step s) { s with inputs := rest, readData := some (statusByte s).toNat }) ∧
    (n = 2 → if s.srcOffHeld then Gives (step s) { s with inputs := rest, readData := some s.srcOff }
      else step s = .refused (.readWithoutValue .srcOff)) ∧
    (n = 3 → if s.srcLenHeld then Gives (step s) { s with inputs := rest, readData := some s.srcLen }
      else step s = .refused (.readWithoutValue .srcLen)) ∧
    (n = 4 → if s.dstOffHeld then Gives (step s) { s with inputs := rest, readData := some s.dstOff }
      else step s = .refused (.readWithoutValue .dstOff)) ∧
    (n = 5 → Gives (step s)
      { s with inputs := rest, readData := some (if s.state = .busy then 0 else s.bytesWritten) })

/-- R27, `IDLE` and `DONE`: a host write to an operand register takes effect and gives it a value (the low `AW` bits, log
13); every other register but `CTRL` ignores writes (R20). Nothing else changes. -/
def Obligations.HostWritesTakeEffectInIdleAndDone : Prop :=
  ∀ (s : State) (n v : Nat) (rest : List HostOp), configRefusal s = none → s.state = .idle ∨ s.state = .done →
    s.inputs = .writeReg n v :: rest →
    (n = 2 → Gives (step s) { s with inputs := rest, srcOff := v % 2 ^ s.aw, srcOffHeld := true }) ∧
    (n = 3 → Gives (step s) { s with inputs := rest, srcLen := v % 2 ^ s.aw, srcLenHeld := true }) ∧
    (n = 4 → Gives (step s) { s with inputs := rest, dstOff := v % 2 ^ s.aw, dstOffHeld := true }) ∧
    (n = 1 ∨ 5 ≤ n → Gives (step s) { s with inputs := rest })

/-- R27, `BUSY` and `FAULT`: every host write, the `START` write included, is ignored: nothing the host writes alters a
running call. -/
def Obligations.HostWritesIgnoredInBusyAndFault : Prop :=
  ∀ (s : State) (n v : Nat) (rest : List HostOp), configRefusal s = none → s.state = .busy ∨ s.state = .fault →
    s.inputs = .writeReg n v :: rest → Gives (step s) { s with inputs := rest }

/-- R21: a write to `CTRL` with bit 0 clear has no effect in any state, whatever bits 7:1 are. -/
def Obligations.CtrlWriteWithoutStartHasNoEffect : Prop :=
  ∀ (s : State) (v : Nat) (rest : List HostOp), configRefusal s = none → s.inputs = .writeReg 0 v :: rest →
    v % 2 = 0 → Gives (step s) { s with inputs := rest }

/-! ### The instructions (41_bit_tree_walker.md, 60_exceptions.md) -/

/-- R101: the `START` step, all of it: ignored in `BUSY` and `FAULT`; in `IDLE` and `DONE`, on operands that hold values,
the three clears, the two range tests in order, then the empty window, or a call begins. -/
def Obligations.StartStepFollowsItsRule : Prop :=
  ∀ (r : BitVec 7) (s : State),
    (s.state = .busy ∨ s.state = .fault → Gives (exec (.start r) s) s) ∧
    (s.state = .idle ∨ s.state = .done → s.srcOffHeld = true → s.srcLenHeld = true → s.dstOffHeld = true →
      Gives (exec (.start r) s) (
        if s.srcOff + s.srcLen > s.srcSize then
          { s with success := false, bytesWritten := 0, state := .fault, faultCode := .srcRange }
        else if s.dstOff > s.dstSize then
          { s with success := false, bytesWritten := 0, state := .fault, faultCode := .dstRange }
        else if s.srcLen = 0 then
          { s with
            success := false, faultCode := .none, bytesWritten := 0, node := 0, bitnum := 8, destPos := s.dstOff
            endPos := s.srcOff + s.srcLen, state := .done }
        else
          { s with
            success := false, faultCode := .none, bytesWritten := 0, node := 0, bitnum := 8, destPos := s.dstOff
            endPos := s.srcOff + s.srcLen, state := .busy }))

/-- R101, R173: where the host has done its duty and the window is not empty, `START` begins a call. -/
def Obligations.StartBeginsACall : Prop :=
  ∀ (r : BitVec 7) (s : State), s.state = .idle ∨ s.state = .done → s.srcOffHeld = true → s.srcLenHeld = true →
    s.dstOffHeld = true → s.srcOff + s.srcLen ≤ s.srcSize → s.dstOff ≤ s.dstSize → 0 < s.srcLen →
    ∃ t, exec (.start r) s = .next t ∧ t.state = .busy ∧ t.node = 0 ∧ t.bitnum = 8 ∧ t.destPos = s.dstOff ∧
      t.endPos = s.srcOff + s.srcLen ∧ t.srcOff = s.srcOff ∧ t.success = false ∧ t.bytesWritten = 0 ∧
      t.faultCode = .none ∧ t.dst = s.dst

/-- R153: `SRC_RANGE` is raised by an accepted `START` exactly when the unbounded sum exceeds `SRC_SIZE`, and is tested
first; the case `SRC_OFF = SRC_SIZE`, `SRC_LEN = 0` is an ordinary incomplete call. -/
def Obligations.SourceRangeFaultAtStart : Prop :=
  ∀ (r : BitVec 7) (s : State), s.state = .idle ∨ s.state = .done → s.srcOffHeld = true → s.srcLenHeld = true →
    s.dstOffHeld = true → ∃ t, exec (.start r) s = .next t ∧
      (t.state = .fault ∧ t.faultCode = .srcRange ↔ s.srcSize < s.srcOff + s.srcLen) ∧
      (s.srcSize < s.srcOff + s.srcLen → t.src = s.src ∧ t.dst = s.dst ∧ t.srcOff = s.srcOff ∧ t.bytesWritten = 0) ∧
      (s.srcOff = s.srcSize → s.srcLen = 0 → s.dstOff ≤ s.dstSize →
        t.state = .done ∧ t.success = false ∧ t.bytesWritten = 0)

/-- R154: `DST_RANGE` is raised by an accepted `START` exactly when `DST_OFF > DST_SIZE` and `SRC_RANGE` was not. -/
def Obligations.DestinationRangeFaultAtStart : Prop :=
  ∀ (r : BitVec 7) (s : State), s.state = .idle ∨ s.state = .done → s.srcOffHeld = true → s.srcLenHeld = true →
    s.dstOffHeld = true → ∃ t, exec (.start r) s = .next t ∧
      (t.state = .fault ∧ t.faultCode = .dstRange ↔ s.srcOff + s.srcLen ≤ s.srcSize ∧ s.dstSize < s.dstOff)

/-- R28: a `START` accepted while any of the three operand registers holds no value is refused; the register named is the
first of `SRC_OFF`, `SRC_LEN`, `DST_OFF` that holds none (the order is the model's choice, log 21). -/
def Obligations.StartWithoutOperandsIsRefused : Prop :=
  ∀ (r : BitVec 7) (s : State), s.state = .idle ∨ s.state = .done →
    (s.srcOffHeld = false → exec (.start r) s = .refused (.startWithoutValue .srcOff)) ∧
    (s.srcOffHeld = true → s.srcLenHeld = false → exec (.start r) s = .refused (.startWithoutValue .srcLen)) ∧
    (s.srcOffHeld = true → s.srcLenHeld = true → s.dstOffHeld = false →
      exec (.start r) s = .refused (.startWithoutValue .dstOff))

/-- R105: `END` consumes the terminator's byte whole and finishes complete, whatever `BITNUM` and the room in `DST` are:
no tail, no store, no fault. -/
def Obligations.EndFinishesComplete : Prop :=
  ∀ s : State, s.state = .busy → Gives (exec .endMessage s)
    { s with srcOff := s.srcOff + 1, success := true, bytesWritten := s.destPos - s.dstOff, state := .done }

/-- R106: each of the three rows of `EMIT`: with room it stores its byte at `DEST_POS`, restarts at the root and runs the
tail, all other memory as before; with none it raises `DST_OVERFLOW`: no store and no tail. -/
def Obligations.EmitStoresItsByteAndRestarts : Prop :=
  ∀ (i : Instr) (b : Byte) (s : State),
    (i = .emitZero ∧ b = 0 ∨ (∃ k : BitVec 8, i = .emitNear k ∧ b = BitVec.ofNat 8 (0x100 - k.toNat)) ∨
      ∃ k : BitVec 15, i = .emitWide k ∧ b = BitVec.ofNat 8 (0x10000 - (0x8000 + k.toNat))) →
    s.state = .busy →
    (s.destPos < s.dstSize → Gives (exec i s) (tail
      { s with dst := Memory.write Config.unlistedByte s.dst s.destPos b, destPos := s.destPos + 1, node := 0 })) ∧
    (s.dstSize ≤ s.destPos → Gives (exec i s) { s with state := .fault, faultCode := .dstOverflow })

/-- R155: `DST_OVERFLOW` is raised by an `EMIT` with `DEST_POS >= DST_SIZE` and by nothing else of a call (no `END` raises
it); it is raised before the store, and earlier stores remain. By the invariant the condition is an equality. -/
def Obligations.OverflowIsAnEmitWithoutRoom : Prop :=
  ∀ (i : Instr) (s t : State), s.state = .busy → exec i s = .next t →
    (t.state = .fault ↔ instrClass i = some .emit ∧ s.dstSize ≤ s.destPos) ∧
    (t.state = .fault → live t = live { s with state := .fault, faultCode := .dstOverflow }) ∧
    (BusyInv s → (s.dstSize ≤ s.destPos ↔ s.destPos = s.dstSize))

/-- R107: `NODE` descends to its target and runs the tail; no byte is emitted. -/
def Obligations.NodeDescendsToItsTarget : Prop :=
  ∀ (n : NodeId) (s : State), s.state = .busy → Gives (exec (.node n) s) (tail { s with node := n })

/-- R66: a value `256 .. 32767` is of class `RSVD` and has no step: the model refuses it in every state, and refuses every
configuration whose table holds such a value anywhere (that it does so at every step is the model's, log 11). -/
def Obligations.ReservedSlotHasNoStep : Prop :=
  (∀ w : SlotWord, 256 ≤ slotValue w ↔ ∃ k, decodeSlot w = .rsvd k) ∧
  (∀ (k : BitVec 15) (s : State), exec (.rsvd k) s = .refused .tableFailsWfRange) ∧
  ∀ (s : State) (n : NodeId) (b : Bool), 256 ≤ tableNext s.rom n b → step s = .refused .tableFailsWfRange

/-- R104: the tail: advance by one bit, and end incomplete exactly when the advanced `SRC_OFF` is `END_POS`; nothing else
changes. -/
def Obligations.TailAdvancesAndTestsExhaustion : Prop :=
  ∀ s : State, s.state = .busy → ∃ (bn : BitVec 4) (off : Nat),
    (s.bitnum = 1 → bn = 8 ∧ off = s.srcOff + 1) ∧
    (2 ≤ s.bitnum.toNat → bn.toNat = s.bitnum.toNat - 1 ∧ off = s.srcOff) ∧
    (off = s.endPos → live (tail s) = live
      { s with
        bitnum := bn, srcOff := off, success := false, bytesWritten := s.destPos - s.dstOff, state := .done }) ∧
    (off ≠ s.endPos → live (tail s) = live { s with bitnum := bn, srcOff := off })

/-- The frame of the slot instructions that store nothing, `END` and `NODE`: the parameters, the three spaces byte for
byte, the operand registers but `SRC_OFF`, `FAULT_CODE` and what the host holds are unchanged, and so are `DEST_POS` and
`END_POS` where the call goes on. -/
def Obligations.FrameOfEndAndNode : Prop :=
  ∀ (i : Instr) (s t : State), i = .endMessage ∨ (∃ n, i = .node n) → exec i s = .next t →
    (∀ a, readDst t a = readDst s a) ∧ (∀ a, readSrc t a = readSrc s a) ∧ t.rom = s.rom ∧
    t.aw = s.aw ∧ t.srcSize = s.srcSize ∧ t.dstSize = s.dstSize ∧
    t.srcLen = s.srcLen ∧ t.dstOff = s.dstOff ∧
    t.faultCode = s.faultCode ∧ t.srcOffHeld = s.srcOffHeld ∧ t.srcLenHeld = s.srcLenHeld ∧
    t.dstOffHeld = s.dstOffHeld ∧ t.readData = s.readData ∧ t.inputs = s.inputs ∧
    (t.state = .busy → t.destPos = s.destPos ∧ t.endPos = s.endPos ∧
      t.success = s.success ∧ t.bytesWritten = s.bytesWritten)

/-- The frame of the three rows of `EMIT`: the only byte of `DST` that may change is the one at `DEST_POS`, and only where
there is room; `SRC`, `ROM`, the parameters, `SRC_LEN`, `DST_OFF` and what the host holds are unchanged; `END_POS`,
`SUCCESS` and `BYTES_WRITTEN` are unchanged where the call goes on; `FAULT_CODE` is unchanged where there is room; where
there is none every register but the status is. -/
def Obligations.FrameOfEmit : Prop :=
  ∀ (i : Instr) (s t : State), s.state = .busy → instrClass i = some .emit → exec i s = .next t →
    (∀ a, a ≠ s.destPos ∨ s.dstSize ≤ s.destPos → readDst t a = readDst s a) ∧
    (∀ a, readSrc t a = readSrc s a) ∧ t.rom = s.rom ∧
    t.aw = s.aw ∧ t.srcSize = s.srcSize ∧ t.dstSize = s.dstSize ∧
    t.srcLen = s.srcLen ∧ t.dstOff = s.dstOff ∧
    t.srcOffHeld = s.srcOffHeld ∧ t.srcLenHeld = s.srcLenHeld ∧ t.dstOffHeld = s.dstOffHeld ∧
    t.readData = s.readData ∧ t.inputs = s.inputs ∧
    (t.state = .busy → t.endPos = s.endPos ∧ t.success = s.success ∧ t.bytesWritten = s.bytesWritten) ∧
    (s.destPos < s.dstSize → t.faultCode = s.faultCode) ∧
    (s.dstSize ≤ s.destPos → t.srcOff = s.srcOff ∧ t.success = s.success ∧ t.bytesWritten = s.bytesWritten)

/-- The frame of `START`: no byte of any space changes, nor a parameter, an operand register (`SRC_OFF` among them) or what
the host holds; where it is ignored, in `BUSY` and `FAULT`, no flag and no result changes either, and in `BUSY` the cursor
neither. -/
def Obligations.FrameOfStart : Prop :=
  ∀ (r : BitVec 7) (s t : State), exec (.start r) s = .next t →
    (∀ a, readDst t a = readDst s a) ∧ (∀ a, readSrc t a = readSrc s a) ∧ t.rom = s.rom ∧
    t.aw = s.aw ∧ t.srcSize = s.srcSize ∧ t.dstSize = s.dstSize ∧
    t.srcOff = s.srcOff ∧ t.srcLen = s.srcLen ∧ t.dstOff = s.dstOff ∧
    t.srcOffHeld = s.srcOffHeld ∧ t.srcLenHeld = s.srcLenHeld ∧ t.dstOffHeld = s.dstOffHeld ∧
    t.readData = s.readData ∧ t.inputs = s.inputs ∧
    (s.state = .busy ∨ s.state = .fault → t.state = s.state ∧ t.success = s.success ∧ t.faultCode = s.faultCode ∧
      t.bytesWritten = s.bytesWritten) ∧
    (s.state = .busy → t.node = s.node ∧ t.bitnum = s.bitnum ∧ t.destPos = s.destPos ∧ t.endPos = s.endPos)

/-! ### The step (R6, R100, R102) -/

/-- R102: while a call runs and the host leaves the step to the walker, the step is `exec` of the instruction that the
fetched word decodes to: the word at `TABLE[NODE][b]`, `b` the bit `BITNUM - 1` of `SRC[SRC_OFF]`. -/
def Obligations.StepRunsTheFetchedSlot : Prop :=
  ∀ (s : State) (rest : List HostOp) (i : Instr), configRefusal s = none → s.state = .busy →
    s.inputs = .idle :: rest ∨ (s.inputs = [] ∧ rest = []) →
    s.srcOff < s.srcSize → 1 ≤ s.bitnum.toNat → s.bitnum.toNat ≤ 8 →
    decode (.slot (Memory.read Config.unlistedSlot s.rom
      (2 * s.node.toNat + ((readSrc s s.srcOff).toNat >>> (s.bitnum.toNat - 1)) % 2))) = .ok i →
    step s = exec i { s with inputs := rest }

/-- R71, R21: where the host's next move writes a value with bit 0 set to `CTRL`, the step is `exec` of that `START`
(of a wider number the low 8 bits count, log 13). -/
def Obligations.StepRunsTheStartCommand : Prop :=
  ∀ (s : State) (v : Nat) (rest : List HostOp) (i : Instr), configRefusal s = none →
    s.inputs = .writeReg 0 v :: rest → decode (.ctrl (BitVec.ofNat 8 v)) = .ok i →
    step s = exec i { s with inputs := rest } ∧ ∃ r, i = .start r

/-- R100: in `IDLE`, `DONE` and `FAULT` the walker has no step of its own: with no host move the machine waits
(that this step answers a next state is the model's, log 10). -/
def Obligations.WalkerWaitsOutsideBusy : Prop :=
  ∀ s : State, configRefusal s = none → s.state ≠ .busy → s.inputs = [] → Gives (step s) s

/-! ### Invariants -/

/-- The state after reset, with the model's own values of log 2 to log 6, meets the invariant. -/
def Obligations.ResetMeetsTheInvariant : Prop :=
  Inv State.reset

/-- R136, R138 and the canonical form of the spaces: every step, the host's or the walker's, keeps the invariant. -/
def Obligations.EveryStepKeepsTheInvariant : Prop :=
  ∀ s t : State, Inv s → step s = .next t → Inv t

/-- R31, R81, R51: no step of any agent changes the table, nor the other parameters. -/
def Obligations.NoStepChangesTheTable : Prop :=
  ∀ s t : State, step s = .next t →
    t.rom = s.rom ∧ t.aw = s.aw ∧ t.srcSize = s.srcSize ∧ t.dstSize = s.dstSize

/-- R157, R161: in `FAULT` nothing changes but by reset: of a step whose move is not reset only the host's list of moves
and the answer of its read are new. -/
def Obligations.FaultHoldsUntilReset : Prop :=
  ∀ s t : State, s.state = .fault → step s = .next t → (∀ rest, s.inputs ≠ .reset :: rest) →
    live t = live { s with inputs := t.inputs, readData := t.readData }

/-- R45, R102: under the invariant the walker's step in `BUSY` always answers a next state, and reads `SRC` inside the
window only: no bit pattern of `SRC` and no table stops it. -/
def Obligations.BusyWalkerAlwaysSteps : Prop :=
  ∀ s : State, Inv s → s.state = .busy →
    (callStart s ≤ s.srcOff ∧ s.srcOff < s.endPos ∧ s.endPos ≤ s.srcSize) ∧ ∃ t, walk s = .next t

/-- R33, R45: a bit step stores at most one byte, at the `DEST_POS` it starts from, inside `[DST_OFF, DST_SIZE)`, and
writes no byte of `SRC`; where it stores one and the call goes on, `DEST_POS` is one more after it (R16: what it is after a
step that ends the call is left open). -/
def Obligations.BitStepStoresOnlyInsideTheDestination : Prop :=
  ∀ s t : State, Inv s → s.state = .busy → walk s = .next t →
    t.src = s.src ∧
    ∀ a, readDst t a ≠ readDst s a →
      a = s.destPos ∧ s.dstOff ≤ a ∧ a < s.dstSize ∧ (t.state = .busy → t.destPos = s.destPos + 1)

/-- R136 items 5 and 7, R18: every bit step leaves `SRC_LEN` and `DST_OFF` alone; one that does not end the call consumes
exactly one bit and leaves `END_POS` alone too (R16: what it is after a step that ends the call is left open). -/
def Obligations.BitStepConsumesOneBit : Prop :=
  ∀ s t : State, Inv s → s.state = .busy → walk s = .next t →
    t.srcLen = s.srcLen ∧ t.dstOff = s.dstOff ∧
    (t.state = .busy → t.endPos = s.endPos ∧ bitStepsTaken t = bitStepsTaken s + 1)

/-- R176, R163, R48 items 1 and 2: during a call no step changes a byte of `SRC`, and no step but a bit step changes a byte of
`DST`: the host has no such move (log 12). -/
def Obligations.BuffersAreStableDuringACall : Prop :=
  ∀ s t : State, s.state = .busy → step s = .next t →
    (∀ a, readSrc t a = readSrc s a) ∧
    ((∃ op rest, s.inputs = op :: rest ∧ op ≠ .idle) → ∀ a, readDst t a = readDst s a)

/-- R27, R163, R159: nothing the host does but reset alters a running call: of a step in `BUSY` whose move is the host's and
not reset, only the host's list of moves and the answer of its read are new. -/
def Obligations.HostCannotAlterARunningCall : Prop :=
  ∀ (s t : State) (op : HostOp) (rest : List HostOp), s.state = .busy → s.inputs = op :: rest → op ≠ .idle →
    op ≠ .reset → step s = .next t → t = { s with inputs := rest, readData := t.readData }

/-- R166, R82: a step of one instance changes no other instance, and the instances go on sharing one table. -/
def Obligations.InstancesAreIndependent : Prop :=
  ∀ (y z : System) (k : Nat), y.stepAt k = .next z →
    z.count = y.count ∧ (∀ j, j ≠ k → (z.insts[j]?).map live = (y.insts[j]?).map live) ∧ (y.sharesTable → z.sharesTable)

/-! ### The call as a whole (42_huffman_decoder_call.md) -/

/-- R130, R131: a call run step by step, the host silent after `START`, leaves the registers and the bytes that `Decompress`
gives at the moment `STATE` leaves `BUSY`, within `8 * SRC_LEN` bit steps after the `START` step. -/
def Obligations.CallAgreesWithDecompress : Prop :=
  ∀ s : State, Inv s → ReadyToStart s →
    ∃ k t, CallEndsAt s k t ∧ Leaves t (decompressOf s)

/-- R137: from any point of a call with the host silent, the call ends, at the latest when the bits of the window are used
up; an incomplete call ends exactly then. -/
def Obligations.EveryCallEndsWithItsBits : Prop :=
  ∀ s : State, Inv s → s.state = .busy → s.inputs = [] →
    ∃ k t, 1 ≤ k ∧ bitStepsTaken s + k ≤ 8 * s.srcLen ∧ runFor k s = .next t ∧ Ended t ∧
      (∀ j u, j < k → runFor j s = .next u → u.state = .busy) ∧
      (t.state = .done → t.success = false → bitStepsTaken s + k = 8 * s.srcLen)

/-- R150, R134: a call ends in one of five ways, each with its `STATUS` and with `SRC_OFF` and `BYTES_WRITTEN` as the two
tables have them. `u` is the state before the call's last bit step: `DEST_POS - DST_OFF` counts the bytes emitted before
it, and `SRC_OFF` names the byte that holds its bit. -/
def Obligations.CallEndsInOneOfFiveWays : Prop :=
  ∀ s : State, Inv s → ReadyToStart s →
    ∃ k t, CallEndsAt s k t ∧
      ((∃ u, runFor (k - 1) s = .next u ∧ u.state = .busy ∧ step u = .next t ∧
          classOf (tableNext u.rom u.node (sourceBit u)) = .endMessage ∧
          t.state = .done ∧ t.success = true ∧ t.faultCode = .none ∧
          t.bytesWritten = u.destPos - s.dstOff ∧ t.srcOff = 1 + u.srcOff ∧
          s.srcOff ≤ u.srcOff ∧ u.srcOff < s.srcOff + s.srcLen) ∨
        (0 < s.srcLen ∧ ∃ u, runFor (k - 1) s = .next u ∧ u.state = .busy ∧ step u = .next t ∧
          t.state = .done ∧ t.success = false ∧ t.faultCode = .none ∧ k = 8 * s.srcLen + 1 ∧
          ((classOf (tableNext u.rom u.node (sourceBit u)) = .emit ∧ t.bytesWritten = u.destPos + 1 - s.dstOff) ∨
            (classOf (tableNext u.rom u.node (sourceBit u)) = .node ∧ t.bytesWritten = u.destPos - s.dstOff)) ∧
          t.srcOff = s.srcOff + s.srcLen) ∨
        (s.srcLen = 0 ∧ k = 1 ∧ t.state = .done ∧ t.success = false ∧ t.faultCode = .none ∧ t.bytesWritten = 0 ∧
          t.srcOff = s.srcOff) ∨
        (s.srcSize < s.srcOff + s.srcLen ∧ k = 1 ∧ t.state = .fault ∧ t.success = false ∧ t.faultCode = .srcRange ∧
          t.bytesWritten = 0 ∧ t.srcOff = s.srcOff) ∨
        (s.dstSize < s.dstOff ∧ k = 1 ∧ t.state = .fault ∧ t.success = false ∧ t.faultCode = .dstRange ∧
          t.bytesWritten = 0 ∧ t.srcOff = s.srcOff) ∨
        (∃ u, runFor (k - 1) s = .next u ∧ u.state = .busy ∧ step u = .next t ∧
          classOf (tableNext u.rom u.node (sourceBit u)) = .emit ∧ u.dstSize ≤ u.destPos ∧
          t.state = .fault ∧ t.success = false ∧ t.faultCode = .dstOverflow ∧ t.bytesWritten = 0 ∧
          t.srcOff = u.srcOff ∧ s.srcOff ≤ u.srcOff ∧ u.srcOff < s.srcOff + s.srcLen))

/-- R89: where no slot reachable from the root holds the sentinel, no call is ever complete. -/
def Obligations.WithoutSentinelNoCallCompletes : Prop :=
  ∀ s : State, Inv s → ReadyToStart s → ¬ WfEnd s.rom →
    ∃ k t, CallEndsAt s k t ∧ t.success = false

/-- R32, R33: over a whole call no byte of `SRC` and no slot of the table changes, no byte of `DST` outside
`[DST_OFF, DST_SIZE)`, and after a decode outcome none outside `[DST_OFF, DST_OFF + BYTES_WRITTEN)`. -/
def Obligations.CallWritesOnlyItsOutput : Prop :=
  ∀ s : State, Inv s → ReadyToStart s →
    ∃ k t, CallEndsAt s k t ∧ t.src = s.src ∧ t.rom = s.rom ∧
      (∀ a, a < s.dstOff ∨ s.dstSize ≤ a → readDst t a = readDst s a) ∧
      (t.state = .done → ∀ a, s.dstOff + t.bytesWritten ≤ a → readDst t a = readDst s a)

/-- R140: `DST_SIZE - doff >= 8 * len` guarantees that no call with a good window faults, whatever the table and the
source hold; at most `8 * len` bytes are stored, at most `8 * len - 1` by a complete call. -/
def Obligations.RoomForEveryBitNeverOverflows : Prop :=
  ∀ s : State, Inv s → ReadyToStart s → s.srcOff + s.srcLen ≤ s.srcSize → s.dstOff + 8 * s.srcLen ≤ s.dstSize →
    ∃ k t, CallEndsAt s k t ∧ Final t ∧ t.bytesWritten ≤ 8 * s.srcLen ∧
      (t.success = true → t.bytesWritten < 8 * s.srcLen)

/-- R141: a call's outcome, `SRC_OFF`, `BYTES_WRITTEN` and the bytes it stores are a function of the table, the bytes of
the window, the three operands and the two sizes: two calls that agree on these agree on all of it, and every byte of
`DST` is either the same in both or untouched in both. The host is silent after `START`. -/
def Obligations.CallIsAPureFunctionOfItsInputs : Prop :=
  ∀ s s' : State, Inv s → Inv s' → ReadyToStart s → ReadyToStart s' →
    s'.rom = s.rom → s'.srcOff = s.srcOff → s'.srcLen = s.srcLen → s'.dstOff = s.dstOff →
    s'.srcSize = s.srcSize → s'.dstSize = s.dstSize →
    (∀ a, s.srcOff ≤ a → a < s.srcOff + s.srcLen → readSrc s' a = readSrc s a) →
    ∃ k k' t t', CallEndsAt s k t ∧ CallEndsAt s' k' t' ∧
      t'.state = t.state ∧ t'.success = t.success ∧ t'.faultCode = t.faultCode ∧ t'.bytesWritten = t.bytesWritten ∧
      t'.srcOff = t.srcOff ∧
      ∀ a, readDst t' a = readDst t a ∨ (readDst t' a = readDst s' a ∧ readDst t a = readDst s a)

/-- R142: if no fault occurs, the bytes stored, the flag and `SRC_OFF - off0` depend only on the table and the bytes of the
window: moving the window or the output changes nothing else. -/
def Obligations.CallIsPositionIndependent : Prop :=
  ∀ (rom : List (Nat × SlotWord)) (src src' dst dst' dst1 dst1' : List Host.Cell)
    (srcSize srcSize' off off' len dstSize dstSize' doff doff' n n' end1 end1' : Nat) (ok ok' : Bool),
    Memory.wf Config.unlistedByte dst = true → Memory.wf Config.unlistedByte dst' = true →
    (∀ j, j < len → Memory.read Config.unlistedByte src' (off' + j) = Memory.read Config.unlistedByte src (off + j)) →
    decompress rom src srcSize off len dst dstSize doff = .done ok n end1 dst1 →
    decompress rom src' srcSize' off' len dst' dstSize' doff' = .done ok' n' end1' dst1' →
    ok' = ok ∧ n' = n ∧ end1' - off' = end1 - off ∧
    ∀ j, j < n →
      Memory.read Config.unlistedByte dst1' (doff' + j) = Memory.read Config.unlistedByte dst1 (doff + j)

/-- R143: of a complete call that consumes `m` bytes, (a) every longer window gives the same result, (b) every shorter one
is incomplete and stores a beginning of the same bytes. -/
def Obligations.WindowsLongerAndShorterThanTheMessage : Prop :=
  ∀ (rom : List (Nat × SlotWord)) (src dst dst1 : List Host.Cell) (srcSize off len dstSize doff n m : Nat),
    decompress rom src srcSize off len dst dstSize doff = .done true n (off + m) dst1 →
    (∀ len', m ≤ len' → off + len' ≤ srcSize →
      decompress rom src srcSize off len' dst dstSize doff = .done true n (off + m) dst1) ∧
    ∀ len', len' < m → ∃ n' dst2,
      decompress rom src srcSize off len' dst dstSize doff = .done false n' (off + len') dst2 ∧ n' ≤ n ∧
      ∀ j, j < n' →
        Memory.read Config.unlistedByte dst2 (doff + j) = Memory.read Config.unlistedByte dst1 (doff + j)

/-- R144, R72, R74: a message of codewords and the sentinel's codeword, followed by any padding to the end of its last
byte, decodes to its bytes, complete, and `SRC_OFF` is left after it. -/
def Obligations.MessageDecodesToItsBytes : Prop :=
  ∀ (rom : List (Nat × SlotWord)) (src dst : List Host.Cell) (srcSize off len dstSize doff m : Nat)
    (codewords : List (List Bool)) (bytes : List Byte) (sentinel padding : List Bool),
    Memory.wf Config.unlistedByte dst = true →
    List.Forall₂ (IsByteCodeword rom) codewords bytes → IsEndCodeword rom sentinel →
    windowBits src off m = messageBits codewords sentinel ++ padding → padding.length < 8 →
    m ≤ len → off + len ≤ srcSize → doff + bytes.length ≤ dstSize →
    ∃ dst1, decompress rom src srcSize off len dst dstSize doff = .done true bytes.length (off + m) dst1 ∧
      (∀ j (h : j < bytes.length), Memory.read Config.unlistedByte dst1 (doff + j) = bytes[j]) ∧
      ∀ a, (a < doff ∨ doff + bytes.length ≤ a) →
        Memory.read Config.unlistedByte dst1 a = Memory.read Config.unlistedByte dst a
end

