-- ==== Sys2Proof/Laws/State.lean ====
section
/-! SUPPORT. One lemma per field per update: what each shared update of the state writes and what it leaves. -/

namespace Sys2Proof.Machine

@[simp] theorem raiseFault_aw (code : FaultCode) (s : State) : (raiseFault code s).aw = s.aw := rfl
@[simp] theorem raiseFault_srcSize (code : FaultCode) (s : State) : (raiseFault code s).srcSize = s.srcSize := rfl
@[simp] theorem raiseFault_dstSize (code : FaultCode) (s : State) : (raiseFault code s).dstSize = s.dstSize := rfl
@[simp] theorem raiseFault_rom (code : FaultCode) (s : State) : (raiseFault code s).rom = s.rom := rfl
@[simp] theorem raiseFault_src (code : FaultCode) (s : State) : (raiseFault code s).src = s.src := rfl
@[simp] theorem raiseFault_dst (code : FaultCode) (s : State) : (raiseFault code s).dst = s.dst := rfl
@[simp] theorem raiseFault_node (code : FaultCode) (s : State) : (raiseFault code s).node = s.node := rfl
@[simp] theorem raiseFault_bitnum (code : FaultCode) (s : State) : (raiseFault code s).bitnum = s.bitnum := rfl
@[simp] theorem raiseFault_srcOff (code : FaultCode) (s : State) : (raiseFault code s).srcOff = s.srcOff := rfl
@[simp] theorem raiseFault_destPos (code : FaultCode) (s : State) : (raiseFault code s).destPos = s.destPos := rfl
@[simp] theorem raiseFault_endPos (code : FaultCode) (s : State) : (raiseFault code s).endPos = s.endPos := rfl
@[simp] theorem raiseFault_srcLen (code : FaultCode) (s : State) : (raiseFault code s).srcLen = s.srcLen := rfl
@[simp] theorem raiseFault_dstOff (code : FaultCode) (s : State) : (raiseFault code s).dstOff = s.dstOff := rfl
@[simp] theorem raiseFault_bytesWritten (code : FaultCode) (s : State) : (raiseFault code s).bytesWritten = s.bytesWritten := rfl
@[simp] theorem raiseFault_state (code : FaultCode) (s : State) : (raiseFault code s).state = .fault := rfl
@[simp] theorem raiseFault_success (code : FaultCode) (s : State) : (raiseFault code s).success = s.success := rfl
@[simp] theorem raiseFault_faultCode (code : FaultCode) (s : State) : (raiseFault code s).faultCode = code := rfl
@[simp] theorem raiseFault_srcOffHeld (code : FaultCode) (s : State) : (raiseFault code s).srcOffHeld = s.srcOffHeld := rfl
@[simp] theorem raiseFault_srcLenHeld (code : FaultCode) (s : State) : (raiseFault code s).srcLenHeld = s.srcLenHeld := rfl
@[simp] theorem raiseFault_dstOffHeld (code : FaultCode) (s : State) : (raiseFault code s).dstOffHeld = s.dstOffHeld := rfl
@[simp] theorem raiseFault_readData (code : FaultCode) (s : State) : (raiseFault code s).readData = s.readData := rfl
@[simp] theorem raiseFault_inputs (code : FaultCode) (s : State) : (raiseFault code s).inputs = s.inputs := rfl

@[simp] theorem finish_aw (ok : Bool) (n : Nat) (s : State) : (finish ok n s).aw = s.aw := rfl
@[simp] theorem finish_srcSize (ok : Bool) (n : Nat) (s : State) : (finish ok n s).srcSize = s.srcSize := rfl
@[simp] theorem finish_dstSize (ok : Bool) (n : Nat) (s : State) : (finish ok n s).dstSize = s.dstSize := rfl
@[simp] theorem finish_rom (ok : Bool) (n : Nat) (s : State) : (finish ok n s).rom = s.rom := rfl
@[simp] theorem finish_src (ok : Bool) (n : Nat) (s : State) : (finish ok n s).src = s.src := rfl
@[simp] theorem finish_dst (ok : Bool) (n : Nat) (s : State) : (finish ok n s).dst = s.dst := rfl
@[simp] theorem finish_node (ok : Bool) (n : Nat) (s : State) : (finish ok n s).node = s.node := rfl
@[simp] theorem finish_bitnum (ok : Bool) (n : Nat) (s : State) : (finish ok n s).bitnum = s.bitnum := rfl
@[simp] theorem finish_srcOff (ok : Bool) (n : Nat) (s : State) : (finish ok n s).srcOff = s.srcOff := rfl
@[simp] theorem finish_destPos (ok : Bool) (n : Nat) (s : State) : (finish ok n s).destPos = s.destPos := rfl
@[simp] theorem finish_endPos (ok : Bool) (n : Nat) (s : State) : (finish ok n s).endPos = s.endPos := rfl
@[simp] theorem finish_srcLen (ok : Bool) (n : Nat) (s : State) : (finish ok n s).srcLen = s.srcLen := rfl
@[simp] theorem finish_dstOff (ok : Bool) (n : Nat) (s : State) : (finish ok n s).dstOff = s.dstOff := rfl
@[simp] theorem finish_bytesWritten (ok : Bool) (n : Nat) (s : State) : (finish ok n s).bytesWritten = n := rfl
@[simp] theorem finish_state (ok : Bool) (n : Nat) (s : State) : (finish ok n s).state = .done := rfl
@[simp] theorem finish_success (ok : Bool) (n : Nat) (s : State) : (finish ok n s).success = ok := rfl
@[simp] theorem finish_faultCode (ok : Bool) (n : Nat) (s : State) : (finish ok n s).faultCode = s.faultCode := rfl
@[simp] theorem finish_srcOffHeld (ok : Bool) (n : Nat) (s : State) : (finish ok n s).srcOffHeld = s.srcOffHeld := rfl
@[simp] theorem finish_srcLenHeld (ok : Bool) (n : Nat) (s : State) : (finish ok n s).srcLenHeld = s.srcLenHeld := rfl
@[simp] theorem finish_dstOffHeld (ok : Bool) (n : Nat) (s : State) : (finish ok n s).dstOffHeld = s.dstOffHeld := rfl
@[simp] theorem finish_readData (ok : Bool) (n : Nat) (s : State) : (finish ok n s).readData = s.readData := rfl
@[simp] theorem finish_inputs (ok : Bool) (n : Nat) (s : State) : (finish ok n s).inputs = s.inputs := rfl

@[simp] theorem clearResults_aw (s : State) : (clearResults s).aw = s.aw := rfl
@[simp] theorem clearResults_srcSize (s : State) : (clearResults s).srcSize = s.srcSize := rfl
@[simp] theorem clearResults_dstSize (s : State) : (clearResults s).dstSize = s.dstSize := rfl
@[simp] theorem clearResults_rom (s : State) : (clearResults s).rom = s.rom := rfl
@[simp] theorem clearResults_src (s : State) : (clearResults s).src = s.src := rfl
@[simp] theorem clearResults_dst (s : State) : (clearResults s).dst = s.dst := rfl
@[simp] theorem clearResults_node (s : State) : (clearResults s).node = s.node := rfl
@[simp] theorem clearResults_bitnum (s : State) : (clearResults s).bitnum = s.bitnum := rfl
@[simp] theorem clearResults_srcOff (s : State) : (clearResults s).srcOff = s.srcOff := rfl
@[simp] theorem clearResults_destPos (s : State) : (clearResults s).destPos = s.destPos := rfl
@[simp] theorem clearResults_endPos (s : State) : (clearResults s).endPos = s.endPos := rfl
@[simp] theorem clearResults_srcLen (s : State) : (clearResults s).srcLen = s.srcLen := rfl
@[simp] theorem clearResults_dstOff (s : State) : (clearResults s).dstOff = s.dstOff := rfl
@[simp] theorem clearResults_bytesWritten (s : State) : (clearResults s).bytesWritten = 0 := rfl
@[simp] theorem clearResults_state (s : State) : (clearResults s).state = s.state := rfl
@[simp] theorem clearResults_success (s : State) : (clearResults s).success = false := rfl
@[simp] theorem clearResults_faultCode (s : State) : (clearResults s).faultCode = .none := rfl
@[simp] theorem clearResults_srcOffHeld (s : State) : (clearResults s).srcOffHeld = s.srcOffHeld := rfl
@[simp] theorem clearResults_srcLenHeld (s : State) : (clearResults s).srcLenHeld = s.srcLenHeld := rfl
@[simp] theorem clearResults_dstOffHeld (s : State) : (clearResults s).dstOffHeld = s.dstOffHeld := rfl
@[simp] theorem clearResults_readData (s : State) : (clearResults s).readData = s.readData := rfl
@[simp] theorem clearResults_inputs (s : State) : (clearResults s).inputs = s.inputs := rfl

@[simp] theorem openCursor_aw (s : State) : (openCursor s).aw = s.aw := rfl
@[simp] theorem openCursor_srcSize (s : State) : (openCursor s).srcSize = s.srcSize := rfl
@[simp] theorem openCursor_dstSize (s : State) : (openCursor s).dstSize = s.dstSize := rfl
@[simp] theorem openCursor_rom (s : State) : (openCursor s).rom = s.rom := rfl
@[simp] theorem openCursor_src (s : State) : (openCursor s).src = s.src := rfl
@[simp] theorem openCursor_dst (s : State) : (openCursor s).dst = s.dst := rfl
@[simp] theorem openCursor_node (s : State) : (openCursor s).node = 0 := rfl
@[simp] theorem openCursor_bitnum (s : State) : (openCursor s).bitnum = 8 := rfl
@[simp] theorem openCursor_srcOff (s : State) : (openCursor s).srcOff = s.srcOff := rfl
@[simp] theorem openCursor_destPos (s : State) : (openCursor s).destPos = s.dstOff := rfl
@[simp] theorem openCursor_endPos (s : State) : (openCursor s).endPos = s.srcOff + s.srcLen := rfl
@[simp] theorem openCursor_srcLen (s : State) : (openCursor s).srcLen = s.srcLen := rfl
@[simp] theorem openCursor_dstOff (s : State) : (openCursor s).dstOff = s.dstOff := rfl
@[simp] theorem openCursor_bytesWritten (s : State) : (openCursor s).bytesWritten = s.bytesWritten := rfl
@[simp] theorem openCursor_state (s : State) : (openCursor s).state = s.state := rfl
@[simp] theorem openCursor_success (s : State) : (openCursor s).success = s.success := rfl
@[simp] theorem openCursor_faultCode (s : State) : (openCursor s).faultCode = s.faultCode := rfl
@[simp] theorem openCursor_srcOffHeld (s : State) : (openCursor s).srcOffHeld = s.srcOffHeld := rfl
@[simp] theorem openCursor_srcLenHeld (s : State) : (openCursor s).srcLenHeld = s.srcLenHeld := rfl
@[simp] theorem openCursor_dstOffHeld (s : State) : (openCursor s).dstOffHeld = s.dstOffHeld := rfl
@[simp] theorem openCursor_readData (s : State) : (openCursor s).readData = s.readData := rfl
@[simp] theorem openCursor_inputs (s : State) : (openCursor s).inputs = s.inputs := rfl

@[simp] theorem enterBusy_aw (s : State) : (enterBusy s).aw = s.aw := rfl
@[simp] theorem enterBusy_srcSize (s : State) : (enterBusy s).srcSize = s.srcSize := rfl
@[simp] theorem enterBusy_dstSize (s : State) : (enterBusy s).dstSize = s.dstSize := rfl
@[simp] theorem enterBusy_rom (s : State) : (enterBusy s).rom = s.rom := rfl
@[simp] theorem enterBusy_src (s : State) : (enterBusy s).src = s.src := rfl
@[simp] theorem enterBusy_dst (s : State) : (enterBusy s).dst = s.dst := rfl
@[simp] theorem enterBusy_node (s : State) : (enterBusy s).node = s.node := rfl
@[simp] theorem enterBusy_bitnum (s : State) : (enterBusy s).bitnum = s.bitnum := rfl
@[simp] theorem enterBusy_srcOff (s : State) : (enterBusy s).srcOff = s.srcOff := rfl
@[simp] theorem enterBusy_destPos (s : State) : (enterBusy s).destPos = s.destPos := rfl
@[simp] theorem enterBusy_endPos (s : State) : (enterBusy s).endPos = s.endPos := rfl
@[simp] theorem enterBusy_srcLen (s : State) : (enterBusy s).srcLen = s.srcLen := rfl
@[simp] theorem enterBusy_dstOff (s : State) : (enterBusy s).dstOff = s.dstOff := rfl
@[simp] theorem enterBusy_bytesWritten (s : State) : (enterBusy s).bytesWritten = s.bytesWritten := rfl
@[simp] theorem enterBusy_state (s : State) : (enterBusy s).state = .busy := rfl
@[simp] theorem enterBusy_success (s : State) : (enterBusy s).success = s.success := rfl
@[simp] theorem enterBusy_faultCode (s : State) : (enterBusy s).faultCode = s.faultCode := rfl
@[simp] theorem enterBusy_srcOffHeld (s : State) : (enterBusy s).srcOffHeld = s.srcOffHeld := rfl
@[simp] theorem enterBusy_srcLenHeld (s : State) : (enterBusy s).srcLenHeld = s.srcLenHeld := rfl
@[simp] theorem enterBusy_dstOffHeld (s : State) : (enterBusy s).dstOffHeld = s.dstOffHeld := rfl
@[simp] theorem enterBusy_readData (s : State) : (enterBusy s).readData = s.readData := rfl
@[simp] theorem enterBusy_inputs (s : State) : (enterBusy s).inputs = s.inputs := rfl

@[simp] theorem writeDst_aw (s : State) (i : Nat) (b : Byte) : (writeDst s i b).aw = s.aw := rfl
@[simp] theorem writeDst_srcSize (s : State) (i : Nat) (b : Byte) : (writeDst s i b).srcSize = s.srcSize := rfl
@[simp] theorem writeDst_dstSize (s : State) (i : Nat) (b : Byte) : (writeDst s i b).dstSize = s.dstSize := rfl
@[simp] theorem writeDst_rom (s : State) (i : Nat) (b : Byte) : (writeDst s i b).rom = s.rom := rfl
@[simp] theorem writeDst_src (s : State) (i : Nat) (b : Byte) : (writeDst s i b).src = s.src := rfl
@[simp] theorem writeDst_dst (s : State) (i : Nat) (b : Byte) : (writeDst s i b).dst = Memory.write Config.unlistedByte s.dst i b := rfl
@[simp] theorem writeDst_node (s : State) (i : Nat) (b : Byte) : (writeDst s i b).node = s.node := rfl
@[simp] theorem writeDst_bitnum (s : State) (i : Nat) (b : Byte) : (writeDst s i b).bitnum = s.bitnum := rfl
@[simp] theorem writeDst_srcOff (s : State) (i : Nat) (b : Byte) : (writeDst s i b).srcOff = s.srcOff := rfl
@[simp] theorem writeDst_destPos (s : State) (i : Nat) (b : Byte) : (writeDst s i b).destPos = s.destPos := rfl
@[simp] theorem writeDst_endPos (s : State) (i : Nat) (b : Byte) : (writeDst s i b).endPos = s.endPos := rfl
@[simp] theorem writeDst_srcLen (s : State) (i : Nat) (b : Byte) : (writeDst s i b).srcLen = s.srcLen := rfl
@[simp] theorem writeDst_dstOff (s : State) (i : Nat) (b : Byte) : (writeDst s i b).dstOff = s.dstOff := rfl
@[simp] theorem writeDst_bytesWritten (s : State) (i : Nat) (b : Byte) : (writeDst s i b).bytesWritten = s.bytesWritten := rfl
@[simp] theorem writeDst_state (s : State) (i : Nat) (b : Byte) : (writeDst s i b).state = s.state := rfl
@[simp] theorem writeDst_success (s : State) (i : Nat) (b : Byte) : (writeDst s i b).success = s.success := rfl
@[simp] theorem writeDst_faultCode (s : State) (i : Nat) (b : Byte) : (writeDst s i b).faultCode = s.faultCode := rfl
@[simp] theorem writeDst_srcOffHeld (s : State) (i : Nat) (b : Byte) : (writeDst s i b).srcOffHeld = s.srcOffHeld := rfl
@[simp] theorem writeDst_srcLenHeld (s : State) (i : Nat) (b : Byte) : (writeDst s i b).srcLenHeld = s.srcLenHeld := rfl
@[simp] theorem writeDst_dstOffHeld (s : State) (i : Nat) (b : Byte) : (writeDst s i b).dstOffHeld = s.dstOffHeld := rfl
@[simp] theorem writeDst_readData (s : State) (i : Nat) (b : Byte) : (writeDst s i b).readData = s.readData := rfl
@[simp] theorem writeDst_inputs (s : State) (i : Nat) (b : Byte) : (writeDst s i b).inputs = s.inputs := rfl

@[simp] theorem writeSrc_aw (s : State) (i : Nat) (b : Byte) : (writeSrc s i b).aw = s.aw := rfl
@[simp] theorem writeSrc_srcSize (s : State) (i : Nat) (b : Byte) : (writeSrc s i b).srcSize = s.srcSize := rfl
@[simp] theorem writeSrc_dstSize (s : State) (i : Nat) (b : Byte) : (writeSrc s i b).dstSize = s.dstSize := rfl
@[simp] theorem writeSrc_rom (s : State) (i : Nat) (b : Byte) : (writeSrc s i b).rom = s.rom := rfl
@[simp] theorem writeSrc_src (s : State) (i : Nat) (b : Byte) : (writeSrc s i b).src = Memory.write Config.unlistedByte s.src i b := rfl
@[simp] theorem writeSrc_dst (s : State) (i : Nat) (b : Byte) : (writeSrc s i b).dst = s.dst := rfl
@[simp] theorem writeSrc_node (s : State) (i : Nat) (b : Byte) : (writeSrc s i b).node = s.node := rfl
@[simp] theorem writeSrc_bitnum (s : State) (i : Nat) (b : Byte) : (writeSrc s i b).bitnum = s.bitnum := rfl
@[simp] theorem writeSrc_srcOff (s : State) (i : Nat) (b : Byte) : (writeSrc s i b).srcOff = s.srcOff := rfl
@[simp] theorem writeSrc_destPos (s : State) (i : Nat) (b : Byte) : (writeSrc s i b).destPos = s.destPos := rfl
@[simp] theorem writeSrc_endPos (s : State) (i : Nat) (b : Byte) : (writeSrc s i b).endPos = s.endPos := rfl
@[simp] theorem writeSrc_srcLen (s : State) (i : Nat) (b : Byte) : (writeSrc s i b).srcLen = s.srcLen := rfl
@[simp] theorem writeSrc_dstOff (s : State) (i : Nat) (b : Byte) : (writeSrc s i b).dstOff = s.dstOff := rfl
@[simp] theorem writeSrc_bytesWritten (s : State) (i : Nat) (b : Byte) : (writeSrc s i b).bytesWritten = s.bytesWritten := rfl
@[simp] theorem writeSrc_state (s : State) (i : Nat) (b : Byte) : (writeSrc s i b).state = s.state := rfl
@[simp] theorem writeSrc_success (s : State) (i : Nat) (b : Byte) : (writeSrc s i b).success = s.success := rfl
@[simp] theorem writeSrc_faultCode (s : State) (i : Nat) (b : Byte) : (writeSrc s i b).faultCode = s.faultCode := rfl
@[simp] theorem writeSrc_srcOffHeld (s : State) (i : Nat) (b : Byte) : (writeSrc s i b).srcOffHeld = s.srcOffHeld := rfl
@[simp] theorem writeSrc_srcLenHeld (s : State) (i : Nat) (b : Byte) : (writeSrc s i b).srcLenHeld = s.srcLenHeld := rfl
@[simp] theorem writeSrc_dstOffHeld (s : State) (i : Nat) (b : Byte) : (writeSrc s i b).dstOffHeld = s.dstOffHeld := rfl
@[simp] theorem writeSrc_readData (s : State) (i : Nat) (b : Byte) : (writeSrc s i b).readData = s.readData := rfl
@[simp] theorem writeSrc_inputs (s : State) (i : Nat) (b : Byte) : (writeSrc s i b).inputs = s.inputs := rfl

@[simp] theorem applyReset_aw (s : State) : (applyReset s).aw = s.aw := rfl
@[simp] theorem applyReset_srcSize (s : State) : (applyReset s).srcSize = s.srcSize := rfl
@[simp] theorem applyReset_dstSize (s : State) : (applyReset s).dstSize = s.dstSize := rfl
@[simp] theorem applyReset_rom (s : State) : (applyReset s).rom = s.rom := rfl
@[simp] theorem applyReset_src (s : State) : (applyReset s).src = s.src := rfl
@[simp] theorem applyReset_dst (s : State) : (applyReset s).dst = s.dst := rfl
@[simp] theorem applyReset_node (s : State) : (applyReset s).node = 0 := rfl
@[simp] theorem applyReset_bitnum (s : State) : (applyReset s).bitnum = 8 := rfl
@[simp] theorem applyReset_srcOff (s : State) : (applyReset s).srcOff = 0 := rfl
@[simp] theorem applyReset_destPos (s : State) : (applyReset s).destPos = 0 := rfl
@[simp] theorem applyReset_endPos (s : State) : (applyReset s).endPos = 0 := rfl
@[simp] theorem applyReset_srcLen (s : State) : (applyReset s).srcLen = 0 := rfl
@[simp] theorem applyReset_dstOff (s : State) : (applyReset s).dstOff = 0 := rfl
@[simp] theorem applyReset_bytesWritten (s : State) : (applyReset s).bytesWritten = 0 := rfl
@[simp] theorem applyReset_state (s : State) : (applyReset s).state = .idle := rfl
@[simp] theorem applyReset_success (s : State) : (applyReset s).success = false := rfl
@[simp] theorem applyReset_faultCode (s : State) : (applyReset s).faultCode = .none := rfl
@[simp] theorem applyReset_srcOffHeld (s : State) : (applyReset s).srcOffHeld = false := rfl
@[simp] theorem applyReset_srcLenHeld (s : State) : (applyReset s).srcLenHeld = false := rfl
@[simp] theorem applyReset_dstOffHeld (s : State) : (applyReset s).dstOffHeld = false := rfl
@[simp] theorem applyReset_readData (s : State) : (applyReset s).readData = s.readData := rfl
@[simp] theorem applyReset_inputs (s : State) : (applyReset s).inputs = s.inputs := rfl

@[simp] theorem advanceBit_aw (s : State) : (advanceBit s).aw = s.aw := by
  unfold advanceBit; split <;> rfl
@[simp] theorem advanceBit_srcSize (s : State) : (advanceBit s).srcSize = s.srcSize := by
  unfold advanceBit; split <;> rfl
@[simp] theorem advanceBit_dstSize (s : State) : (advanceBit s).dstSize = s.dstSize := by
  unfold advanceBit; split <;> rfl
@[simp] theorem advanceBit_rom (s : State) : (advanceBit s).rom = s.rom := by
  unfold advanceBit; split <;> rfl
@[simp] theorem advanceBit_src (s : State) : (advanceBit s).src = s.src := by
  unfold advanceBit; split <;> rfl
@[simp] theorem advanceBit_dst (s : State) : (advanceBit s).dst = s.dst := by
  unfold advanceBit; split <;> rfl
@[simp] theorem advanceBit_node (s : State) : (advanceBit s).node = s.node := by
  unfold advanceBit; split <;> rfl
@[simp] theorem advanceBit_destPos (s : State) : (advanceBit s).destPos = s.destPos := by
  unfold advanceBit; split <;> rfl
@[simp] theorem advanceBit_endPos (s : State) : (advanceBit s).endPos = s.endPos := by
  unfold advanceBit; split <;> rfl
@[simp] theorem advanceBit_srcLen (s : State) : (advanceBit s).srcLen = s.srcLen := by
  unfold advanceBit; split <;> rfl
@[simp] theorem advanceBit_dstOff (s : State) : (advanceBit s).dstOff = s.dstOff := by
  unfold advanceBit; split <;> rfl
@[simp] theorem advanceBit_bytesWritten (s : State) : (advanceBit s).bytesWritten = s.bytesWritten := by
  unfold advanceBit; split <;> rfl
@[simp] theorem advanceBit_state (s : State) : (advanceBit s).state = s.state := by
  unfold advanceBit; split <;> rfl
@[simp] theorem advanceBit_success (s : State) : (advanceBit s).success = s.success := by
  unfold advanceBit; split <;> rfl
@[simp] theorem advanceBit_faultCode (s : State) : (advanceBit s).faultCode = s.faultCode := by
  unfold advanceBit; split <;> rfl
@[simp] theorem advanceBit_srcOffHeld (s : State) : (advanceBit s).srcOffHeld = s.srcOffHeld := by
  unfold advanceBit; split <;> rfl
@[simp] theorem advanceBit_srcLenHeld (s : State) : (advanceBit s).srcLenHeld = s.srcLenHeld := by
  unfold advanceBit; split <;> rfl
@[simp] theorem advanceBit_dstOffHeld (s : State) : (advanceBit s).dstOffHeld = s.dstOffHeld := by
  unfold advanceBit; split <;> rfl
@[simp] theorem advanceBit_readData (s : State) : (advanceBit s).readData = s.readData := by
  unfold advanceBit; split <;> rfl
@[simp] theorem advanceBit_inputs (s : State) : (advanceBit s).inputs = s.inputs := by
  unfold advanceBit; split <;> rfl

@[simp] theorem endIfExhausted_aw (s : State) : (endIfExhausted s).aw = s.aw := by
  unfold endIfExhausted; split <;> rfl
@[simp] theorem endIfExhausted_srcSize (s : State) : (endIfExhausted s).srcSize = s.srcSize := by
  unfold endIfExhausted; split <;> rfl
@[simp] theorem endIfExhausted_dstSize (s : State) : (endIfExhausted s).dstSize = s.dstSize := by
  unfold endIfExhausted; split <;> rfl
@[simp] theorem endIfExhausted_rom (s : State) : (endIfExhausted s).rom = s.rom := by
  unfold endIfExhausted; split <;> rfl
@[simp] theorem endIfExhausted_src (s : State) : (endIfExhausted s).src = s.src := by
  unfold endIfExhausted; split <;> rfl
@[simp] theorem endIfExhausted_dst (s : State) : (endIfExhausted s).dst = s.dst := by
  unfold endIfExhausted; split <;> rfl
@[simp] theorem endIfExhausted_node (s : State) : (endIfExhausted s).node = s.node := by
  unfold endIfExhausted; split <;> rfl
@[simp] theorem endIfExhausted_bitnum (s : State) : (endIfExhausted s).bitnum = s.bitnum := by
  unfold endIfExhausted; split <;> rfl
@[simp] theorem endIfExhausted_srcOff (s : State) : (endIfExhausted s).srcOff = s.srcOff := by
  unfold endIfExhausted; split <;> rfl
@[simp] theorem endIfExhausted_destPos (s : State) : (endIfExhausted s).destPos = s.destPos := by
  unfold endIfExhausted; split <;> rfl
@[simp] theorem endIfExhausted_endPos (s : State) : (endIfExhausted s).endPos = s.endPos := by
  unfold endIfExhausted; split <;> rfl
@[simp] theorem endIfExhausted_srcLen (s : State) : (endIfExhausted s).srcLen = s.srcLen := by
  unfold endIfExhausted; split <;> rfl
@[simp] theorem endIfExhausted_dstOff (s : State) : (endIfExhausted s).dstOff = s.dstOff := by
  unfold endIfExhausted; split <;> rfl
@[simp] theorem endIfExhausted_faultCode (s : State) : (endIfExhausted s).faultCode = s.faultCode := by
  unfold endIfExhausted; split <;> rfl
@[simp] theorem endIfExhausted_srcOffHeld (s : State) : (endIfExhausted s).srcOffHeld = s.srcOffHeld := by
  unfold endIfExhausted; split <;> rfl
@[simp] theorem endIfExhausted_srcLenHeld (s : State) : (endIfExhausted s).srcLenHeld = s.srcLenHeld := by
  unfold endIfExhausted; split <;> rfl
@[simp] theorem endIfExhausted_dstOffHeld (s : State) : (endIfExhausted s).dstOffHeld = s.dstOffHeld := by
  unfold endIfExhausted; split <;> rfl
@[simp] theorem endIfExhausted_readData (s : State) : (endIfExhausted s).readData = s.readData := by
  unfold endIfExhausted; split <;> rfl
@[simp] theorem endIfExhausted_inputs (s : State) : (endIfExhausted s).inputs = s.inputs := by
  unfold endIfExhausted; split <;> rfl

@[simp] theorem tail_aw (s : State) : (tail s).aw = s.aw := by
  simp [tail]
@[simp] theorem tail_srcSize (s : State) : (tail s).srcSize = s.srcSize := by
  simp [tail]
@[simp] theorem tail_dstSize (s : State) : (tail s).dstSize = s.dstSize := by
  simp [tail]
@[simp] theorem tail_rom (s : State) : (tail s).rom = s.rom := by
  simp [tail]
@[simp] theorem tail_src (s : State) : (tail s).src = s.src := by
  simp [tail]
@[simp] theorem tail_dst (s : State) : (tail s).dst = s.dst := by
  simp [tail]
@[simp] theorem tail_node (s : State) : (tail s).node = s.node := by
  simp [tail]
@[simp] theorem tail_destPos (s : State) : (tail s).destPos = s.destPos := by
  simp [tail]
@[simp] theorem tail_endPos (s : State) : (tail s).endPos = s.endPos := by
  simp [tail]
@[simp] theorem tail_srcLen (s : State) : (tail s).srcLen = s.srcLen := by
  simp [tail]
@[simp] theorem tail_dstOff (s : State) : (tail s).dstOff = s.dstOff := by
  simp [tail]
@[simp] theorem tail_faultCode (s : State) : (tail s).faultCode = s.faultCode := by
  simp [tail]
@[simp] theorem tail_srcOffHeld (s : State) : (tail s).srcOffHeld = s.srcOffHeld := by
  simp [tail]
@[simp] theorem tail_srcLenHeld (s : State) : (tail s).srcLenHeld = s.srcLenHeld := by
  simp [tail]
@[simp] theorem tail_dstOffHeld (s : State) : (tail s).dstOffHeld = s.dstOffHeld := by
  simp [tail]
@[simp] theorem tail_readData (s : State) : (tail s).readData = s.readData := by
  simp [tail]
@[simp] theorem tail_inputs (s : State) : (tail s).inputs = s.inputs := by
  simp [tail]

end Sys2Proof.Machine
end

