-- ==== Sys2Proof/Laws/Memory.lean ====
section
/-! SUPPORT. The laws of the canonical lists that hold `ROM`, `SRC` and `DST`: a read after a write, the canonical form kept
by every operation, and equal contents are equal lists. -/

namespace Sys2Proof.Machine

variable {w : Nat} {d : BitVec w}

@[simp] theorem read_nil (a : Nat) : Memory.read d [] a = d := rfl

theorem read_cons (c : Nat × BitVec w) (m : List (Nat × BitVec w)) (a : Nat) :
    Memory.read d (c :: m) a = if c.1 = a then c.2 else Memory.read d m a := rfl

theorem wf_cons {c : Nat × BitVec w} {m : List (Nat × BitVec w)} :
    Memory.wf d (c :: m) = true ↔ c.2 ≠ d ∧ (∀ e ∈ m, c.1 < e.1) ∧ Memory.wf d m = true := by
  simp [Memory.wf, and_assoc]

/-- An address below every listed one reads as unlisted. -/
theorem read_of_lt {m : List (Nat × BitVec w)} {a : Nat} (h : ∀ e ∈ m, a < e.1) : Memory.read d m a = d := by
  induction m with
  | nil => rfl
  | cons c m ih =>
    have hc : a < c.1 := h c (by simp)
    rw [read_cons, if_neg (by omega)]
    exact ih fun e he => h e (by simp [he])

theorem read_write_other {m : List (Nat × BitVec w)} {a b : Nat} (v : BitVec w) (h : b ≠ a) :
    Memory.read d (Memory.write d m a v) b = Memory.read d m b := by
  induction m with
  | nil =>
    by_cases hv : v = d
    · simp [Memory.write, hv]
    · simp [Memory.write, hv, read_cons, Ne.symm h]
  | cons c m ih =>
    simp only [Memory.write]
    split_ifs with h1 h2 h3 h4
    · rfl
    · simp [read_cons, Ne.symm h]
    · rw [read_cons, if_neg (by omega)]
    · rw [read_cons, read_cons, if_neg (by simpa using Ne.symm h), if_neg (by omega)]
    · rw [read_cons, read_cons, ih]

theorem read_write_same {m : List (Nat × BitVec w)} {a : Nat} (v : BitVec w) (hm : Memory.wf d m = true) :
    Memory.read d (Memory.write d m a v) a = v := by
  induction m with
  | nil =>
    by_cases hv : v = d
    · simp [Memory.write, hv]
    · simp [Memory.write, hv, read_cons]
  | cons c m ih =>
    obtain ⟨hc, hlt, hm'⟩ := wf_cons.mp hm
    simp only [Memory.write]
    split_ifs with h1 h2 h3 h4
    · rw [read_cons, if_neg (by omega), h2]
      exact read_of_lt fun e he => by have := hlt e he; omega
    · simp [read_cons]
    · rw [h4]
      exact read_of_lt fun e he => by have := hlt e he; omega
    · simp [read_cons]
    · rw [read_cons, if_neg (by omega), ih hm']

theorem mem_write {m : List (Nat × BitVec w)} {a : Nat} {v : BitVec w} {e : Nat × BitVec w}
    (h : e ∈ Memory.write d m a v) : e = (a, v) ∨ e ∈ m := by
  induction m with
  | nil =>
    by_cases hv : v = d
    · simp [Memory.write, hv] at h
    · simpa [Memory.write, hv] using h
  | cons c m ih =>
    simp only [Memory.write] at h
    split_ifs at h with h1 h2 h3 h4
    · exact .inr h
    · simpa using h
    · exact .inr (by simp [h])
    · rcases List.mem_cons.mp h with h | h
      · exact .inl h
      · exact .inr (by simp [h])
    · rcases List.mem_cons.mp h with h | h
      · exact .inr (by simp [h])
      · rcases ih h with h | h
        · exact .inl h
        · exact .inr (by simp [h])

/-- Every write keeps the canonical form. -/
theorem wf_write {m : List (Nat × BitVec w)} (a : Nat) (v : BitVec w) (hm : Memory.wf d m = true) :
    Memory.wf d (Memory.write d m a v) = true := by
  induction m with
  | nil =>
    by_cases hv : v = d
    · simp [Memory.write, hv, Memory.wf]
    · simp [Memory.write, hv, Memory.wf]
  | cons c m ih =>
    obtain ⟨hc, hlt, hm'⟩ := wf_cons.mp hm
    simp only [Memory.write]
    split_ifs with h1 h2 h3 h4
    · exact hm
    · refine wf_cons.mpr ⟨h2, fun e he => ?_, hm⟩
      rcases List.mem_cons.mp he with rfl | he
      · exact h1
      · exact lt_trans h1 (hlt e he)
    · exact hm'
    · exact wf_cons.mpr ⟨h4, fun e he => h3 ▸ hlt e he, hm'⟩
    · refine wf_cons.mpr ⟨hc, fun e he => ?_, ih hm'⟩
      rcases mem_write he with rfl | he
      · simp only; omega
      · exact hlt e he

theorem below_iff {m : List (Nat × BitVec w)} {n : Nat} : Memory.below n m = true ↔ ∀ e ∈ m, e.1 < n := by
  simp [Memory.below]

/-- A write inside the space keeps every listed address inside it. -/
theorem below_write {m : List (Nat × BitVec w)} {a n : Nat} (v : BitVec w) (ha : a < n) (hm : Memory.below n m = true) :
    Memory.below n (Memory.write d m a v) = true := by
  rw [below_iff] at hm ⊢
  intro e he
  rcases mem_write he with rfl | he
  · exact ha
  · exact hm e he

/-- A listed pair of a canonical list is what its address reads as. -/
theorem read_of_mem {m : List (Nat × BitVec w)} {e : Nat × BitVec w} (hm : Memory.wf d m = true) (he : e ∈ m) :
    Memory.read d m e.1 = e.2 := by
  induction m with
  | nil => simp at he
  | cons c m ih =>
    obtain ⟨_, hlt, hm'⟩ := wf_cons.mp hm
    rcases List.mem_cons.mp he with rfl | he
    · simp [read_cons]
    · have := hlt e he
      rw [read_cons, if_neg (by omega), ih hm' he]

/-- What an address reads as is the unlisted value or a listed pair. -/
theorem read_cases (m : List (Nat × BitVec w)) (a : Nat) : Memory.read d m a = d ∨ (a, Memory.read d m a) ∈ m := by
  induction m with
  | nil => exact .inl rfl
  | cons c m ih =>
    rw [read_cons]
    split_ifs with h
    · exact .inr (by rw [← h]; simp)
    · exact ih.imp id fun h => by simp [h]

/-- Equal contents are equal lists. -/
theorem eq_of_read_eq {m m' : List (Nat × BitVec w)} (hm : Memory.wf d m = true) (hm' : Memory.wf d m' = true)
    (h : ∀ a, Memory.read d m a = Memory.read d m' a) : m = m' := by
  induction m generalizing m' with
  | nil =>
    cases m' with
    | nil => rfl
    | cons c m' =>
      have := h c.1
      rw [read_of_mem hm' (by simp)] at this
      exact absurd this.symm (wf_cons.mp hm').1
  | cons c m ih =>
    obtain ⟨hc, hlt, hm1⟩ := wf_cons.mp hm
    cases m' with
    | nil =>
      have := h c.1
      rw [read_of_mem hm (by simp)] at this
      exact absurd this hc
    | cons c' m' =>
      obtain ⟨hc', hlt', hm1'⟩ := wf_cons.mp hm'
      have hk : c.1 = c'.1 := by
        rcases Nat.lt_trichotomy c.1 c'.1 with hl | hl | hl
        · have := h c.1
          rw [read_of_mem hm (by simp), read_of_lt] at this
          · exact absurd this hc
          · intro e he
            rcases List.mem_cons.mp he with rfl | he
            · exact hl
            · exact lt_trans hl (hlt' e he)
        · exact hl
        · have := h c'.1
          rw [read_of_mem hm' (by simp), read_of_lt] at this
          · exact absurd this.symm hc'
          · intro e he
            rcases List.mem_cons.mp he with rfl | he
            · exact hl
            · exact lt_trans hl (hlt e he)
      have hv : c.2 = c'.2 := by
        have := h c.1
        rwa [read_of_mem hm (by simp), hk, read_of_mem hm' (by simp)] at this
      have hcc : c = c' := Prod.ext hk hv
      subst hcc
      refine congrArg _ (ih hm1 hm1' fun a => ?_)
      by_cases ha : c.1 = a
      · subst ha
        rw [read_of_lt hlt, read_of_lt hlt']
      · have := h a
        rwa [read_cons, read_cons, if_neg ha, if_neg ha] at this

end Sys2Proof.Machine
end

