-- ==== Sys2Proof/Laws/Ops.lean ====
section
/-! SUPPORT. One lemma per shared operation that says everything it can do: the classes, the ROM lookup, the configuration
check, the tail, storing a byte, beginning a call. -/

namespace Sys2Proof.Machine

/-! ### Slot values -/

theorem classOf_end_iff {v : Int} : classOf v = .endMessage ↔ v = -256 := by
  unfold classOf Config.sentinelEnd; split_ifs <;> simp_all

theorem classOf_emit_iff {v : Int} : classOf v = .emit ↔ v ≤ 0 ∧ v ≠ -256 := by
  unfold classOf Config.sentinelEnd; split_ifs <;> simp_all

theorem classOf_node_iff {v : Int} : classOf v = .node ↔ 1 ≤ v ∧ v ≤ 255 := by
  unfold classOf Config.sentinelEnd; split_ifs <;> simp_all <;> omega

theorem classOf_rsvd_iff {v : Int} : classOf v = .rsvd ↔ 256 ≤ v := by
  unfold classOf Config.sentinelEnd; split_ifs <;> simp_all <;> omega

theorem slotValue_range (w : SlotWord) : -32768 ≤ slotValue w ∧ slotValue w ≤ 32767 := by
  have h1 := w.le_two_mul_toInt
  have h2 := w.two_mul_toInt_lt
  unfold slotValue
  omega

/-! ### The ROM -/

theorem slotAddress_lt (n : NodeId) (b : Bool) : slotAddress n b < 512 := by
  have := n.isLt
  cases b <;> simp only [slotAddress, Bool.toNat_true, Bool.toNat_false] <;> omega

theorem romInRange_iff {rom : List (Nat × SlotWord)} :
    romInRange rom = true ↔ ∀ e ∈ rom, slotValue e.2 ≤ 255 := by
  simp only [romInRange, List.all_eq_true, bne_iff_ne, ne_eq, classOf_rsvd_iff]
  exact forall₂_congr fun _ _ => by omega

/-- The check of the listed slots gives `WF_range`, whatever the form of the list. -/
theorem wfRange_of_romInRange {rom : List (Nat × SlotWord)} (h : romInRange rom = true) : WfRange rom := by
  intro n b
  refine ⟨(slotValue_range _).1, ?_⟩
  unfold tableNext romWord
  rcases read_cases (d := Config.unlistedSlot) rom (slotAddress n b) with hr | hr
  · rw [hr]; decide
  · exact romInRange_iff.mp h _ hr

/-! ### The configuration -/

theorem configRefusal_none_iff {s : State} :
    configRefusal s = none ↔ romInRange s.rom = true ∧ s.srcSize ≤ 2 ^ s.aw - 1 ∧ s.dstSize ≤ 2 ^ s.aw - 1 := by
  unfold configRefusal spansFit
  split_ifs with h1 h2 <;> simp_all

/-- The configuration check reads only the parameters. -/
theorem configRefusal_congr {s t : State} (ha : t.aw = s.aw) (hs : t.srcSize = s.srcSize) (hd : t.dstSize = s.dstSize)
    (hr : t.rom = s.rom) : configRefusal t = configRefusal s := by
  simp [configRefusal, spansFit, ha, hs, hd, hr]

/-! ### The tail of a bit step -/

theorem bitnum_pred_eq_zero {b : BitVec 4} : b - 1 = 0 ↔ b = 1 := by
  revert b; decide

theorem bitnum_pred_toNat {b : BitVec 4} (h : 1 ≤ b.toNat) : (b - 1).toNat = b.toNat - 1 := by
  revert b; decide

/-- The two ways the bit position advances. -/
theorem advanceBit_cases (s : State) :
    (s.bitnum = 1 ∧ advanceBit s = { s with bitnum := 8, srcOff := s.srcOff + 1 }) ∨
      (s.bitnum ≠ 1 ∧ advanceBit s = { s with bitnum := s.bitnum - 1 }) := by
  unfold advanceBit
  split_ifs with h
  · exact .inl ⟨bitnum_pred_eq_zero.mp h, rfl⟩
  · exact .inr ⟨fun h' => h (bitnum_pred_eq_zero.mpr h'), rfl⟩

/-- The tail ends the call exactly when the advanced `SRC_OFF` is `END_POS`. -/
theorem tail_cases (s : State) :
    ((advanceBit s).srcOff = s.endPos ∧ tail s = finish false (s.destPos - s.dstOff) (advanceBit s)) ∨
      ((advanceBit s).srcOff ≠ s.endPos ∧ tail s = advanceBit s) := by
  unfold tail endIfExhausted
  split_ifs with h
  · exact .inl ⟨by simpa using h, by simp⟩
  · exact .inr ⟨by simpa using h, rfl⟩

/-- The action `EMIT` overflows, or stores and runs the tail. -/
theorem emitByte_cases (b : Byte) (s : State) :
    (s.dstSize ≤ s.destPos ∧ emitByte b s = raiseFault .dstOverflow s) ∨
      (s.destPos < s.dstSize ∧
        emitByte b s = tail { writeDst s s.destPos b with destPos := s.destPos + 1, node := 0 }) := by
  unfold emitByte
  split_ifs with h
  · exact .inl ⟨h, rfl⟩
  · exact .inr ⟨by omega, rfl⟩

/-- The four ends of a `START` step, in the order of R160. -/
theorem beginCall_cases (s : State) :
    (s.srcSize < s.srcOff + s.srcLen ∧ beginCall s = raiseFault .srcRange (clearResults s)) ∨
      (s.srcOff + s.srcLen ≤ s.srcSize ∧ s.dstSize < s.dstOff ∧
        beginCall s = raiseFault .dstRange (clearResults s)) ∨
      (s.srcOff + s.srcLen ≤ s.srcSize ∧ s.dstOff ≤ s.dstSize ∧ s.srcLen = 0 ∧
        beginCall s = finish false 0 (openCursor (clearResults s))) ∨
      (s.srcOff + s.srcLen ≤ s.srcSize ∧ s.dstOff ≤ s.dstSize ∧ 0 < s.srcLen ∧
        beginCall s = enterBusy (openCursor (clearResults s))) := by
  unfold beginCall
  split_ifs with h1 h2 h3
  · exact .inl ⟨h1, rfl⟩
  · exact .inr (.inl ⟨by omega, h2, rfl⟩)
  · exact .inr (.inr (.inl ⟨by omega, by omega, h3, rfl⟩))
  · exact .inr (.inr (.inr ⟨by omega, by omega, by omega, rfl⟩))

/-- What the registers a `START` needs hold. -/
theorem operandWithoutValue_none_iff {s : State} :
    operandWithoutValue s = none ↔ s.srcOffHeld = true ∧ s.srcLenHeld = true ∧ s.dstOffHeld = true := by
  unfold operandWithoutValue
  split_ifs <;> simp_all

end Sys2Proof.Machine
end

