-- ==== Sys2Proof/Laws/Exec.lean ====
section
/-! SUPPORT. What `exec` can do: for each instruction that answers a next state, which one. -/

namespace Sys2Proof.Machine

/-- Everything `exec` can answer as a next state. -/
theorem exec_next_cases {i : Instr} {s t : State} (h : exec i s = .next t) :
    (i = .endMessage ∧ t = finish true (s.destPos - s.dstOff) { s with srcOff := s.srcOff + 1 }) ∨
      (∃ b, byteOfInstr i = some b ∧ t = emitByte b s) ∨
      (∃ n, i = .node n ∧ t = tail { s with node := n }) ∨
      (∃ r, i = .start r ∧ (s.state = .busy ∨ s.state = .fault) ∧ t = s) ∨
      (∃ r, i = .start r ∧ (s.state = .idle ∨ s.state = .done) ∧ operandWithoutValue s = none ∧ t = beginCall s) := by
  cases i with
  | endMessage => exact .inl ⟨rfl, (Host.Outcome.next.inj h).symm⟩
  | emitZero => exact .inr (.inl ⟨_, rfl, (Host.Outcome.next.inj h).symm⟩)
  | emitNear k => exact .inr (.inl ⟨_, rfl, (Host.Outcome.next.inj h).symm⟩)
  | emitWide k => exact .inr (.inl ⟨_, rfl, (Host.Outcome.next.inj h).symm⟩)
  | node n => exact .inr (.inr (.inl ⟨n, rfl, (Host.Outcome.next.inj h).symm⟩))
  | rsvd k => exact absurd h (by simp [exec, execRsvd])
  | start r =>
    refine .inr (.inr (.inr ?_))
    simp only [exec, execStart] at h
    split at h
    · exact .inl ⟨r, rfl, .inl ‹_›, (Host.Outcome.next.inj h).symm⟩
    · exact .inl ⟨r, rfl, .inr ‹_›, (Host.Outcome.next.inj h).symm⟩
    all_goals
      split at h
      · cases h
      · exact .inr ⟨r, rfl, by simp [*], ‹_›, (Host.Outcome.next.inj h).symm⟩

/-- `exec` never stops with a fault of the model. -/
theorem exec_ne_fault (i : Instr) (s : State) (f : Fault) : exec i s ≠ .fault f := by
  cases i <;>
    simp only [exec, execEndMessage, execEmitZero, execEmitNear, execEmitWide, execNode, execRsvd, execStart, ne_eq,
      reduceCtorEq, not_false_eq_true]
  split
  · simp
  · simp
  all_goals split <;> simp

end Sys2Proof.Machine
end

