-- ==== Sys2Proof/Laws/Live.lean ====
section
/-! SUPPORT. What `live` keeps: everything in `BUSY`, and everything but the cursor elsewhere; how an outcome is shown to
give a state. -/

namespace Sys2Proof

open Sys2Proof.Machine

theorem live_of_busy {s : State} (h : s.state = .busy) : live s = s := by
  simp [live, h]

/-- Outside `BUSY` the cursor is all that is left out. -/
theorem live_of_not_busy {s : State} (h : s.state ≠ .busy) :
    live s = { s with node := 0, bitnum := 8, destPos := 0, endPos := 0 } := by
  unfold live
  split
  · exact absurd ‹_› h
  all_goals rfl

/-- The two forms of `live`. -/
theorem live_cases (s : State) :
    live s = s ∨ live s = { s with node := 0, bitnum := 8, destPos := 0, endPos := 0 } := by
  by_cases h : s.state = .busy
  · exact .inl (live_of_busy h)
  · exact .inr (live_of_not_busy h)

@[simp] theorem live_aw (s : State) : (live s).aw = s.aw := by
  rcases live_cases s with h | h <;> rw [h]

@[simp] theorem live_srcSize (s : State) : (live s).srcSize = s.srcSize := by
  rcases live_cases s with h | h <;> rw [h]

@[simp] theorem live_dstSize (s : State) : (live s).dstSize = s.dstSize := by
  rcases live_cases s with h | h <;> rw [h]

@[simp] theorem live_rom (s : State) : (live s).rom = s.rom := by
  rcases live_cases s with h | h <;> rw [h]

@[simp] theorem live_src (s : State) : (live s).src = s.src := by
  rcases live_cases s with h | h <;> rw [h]

@[simp] theorem live_dst (s : State) : (live s).dst = s.dst := by
  rcases live_cases s with h | h <;> rw [h]

@[simp] theorem live_srcOff (s : State) : (live s).srcOff = s.srcOff := by
  rcases live_cases s with h | h <;> rw [h]

@[simp] theorem live_srcLen (s : State) : (live s).srcLen = s.srcLen := by
  rcases live_cases s with h | h <;> rw [h]

@[simp] theorem live_dstOff (s : State) : (live s).dstOff = s.dstOff := by
  rcases live_cases s with h | h <;> rw [h]

@[simp] theorem live_bytesWritten (s : State) : (live s).bytesWritten = s.bytesWritten := by
  rcases live_cases s with h | h <;> rw [h]

@[simp] theorem live_state (s : State) : (live s).state = s.state := by
  rcases live_cases s with h | h <;> rw [h]

@[simp] theorem live_success (s : State) : (live s).success = s.success := by
  rcases live_cases s with h | h <;> rw [h]

@[simp] theorem live_faultCode (s : State) : (live s).faultCode = s.faultCode := by
  rcases live_cases s with h | h <;> rw [h]

@[simp] theorem live_srcOffHeld (s : State) : (live s).srcOffHeld = s.srcOffHeld := by
  rcases live_cases s with h | h <;> rw [h]

@[simp] theorem live_srcLenHeld (s : State) : (live s).srcLenHeld = s.srcLenHeld := by
  rcases live_cases s with h | h <;> rw [h]

@[simp] theorem live_dstOffHeld (s : State) : (live s).dstOffHeld = s.dstOffHeld := by
  rcases live_cases s with h | h <;> rw [h]

@[simp] theorem live_readData (s : State) : (live s).readData = s.readData := by
  rcases live_cases s with h | h <;> rw [h]

@[simp] theorem live_inputs (s : State) : (live s).inputs = s.inputs := by
  rcases live_cases s with h | h <;> rw [h]

/-- An outcome that is the state itself gives it. -/
theorem gives_of_eq {o : Host.Outcome State Fault Refusal} {t : State} (h : o = .next t) : Gives o t :=
  ⟨t, h, rfl⟩

/-- What an outcome gives in `BUSY` it is. -/
theorem eq_of_gives_busy {o : Host.Outcome State Fault Refusal} {t : State} (h : Gives o t) (hb : t.state = .busy) :
    o = .next t := by
  obtain ⟨u, rfl, hu⟩ := h
  have hs : u.state = .busy := by rw [← live_state u, hu, live_state, hb]
  rw [live_of_busy hs, live_of_busy hb] at hu
  rw [hu]

end Sys2Proof
end

