-- ==== Sys2Proof/Laws/PerInstr.lean ====
section
/-! SUPPORT. Statements for every instruction, one lemma per constructor. Family RowMatch: the encoded bits of an
instruction have the width of its row of the opcode table and carry the row's `match` under the row's `mask`. -/

namespace Sys2Proof.Laws.RowMatch

/-- The encoding of the instruction lies in its row of the opcode table. -/
def Statement (i : Instr) : Prop :=
  (bitsOfCode (encode i)).1 = (rowOf i).1 ∧ (bitsOfCode (encode i)).2 &&& (rowOf i).2.2 = (rowOf i).2.1

theorem endMessage : Statement .endMessage := by
  unfold Statement; decide

theorem emitZero : Statement .emitZero := by
  unfold Statement; decide

theorem emitNear (k : BitVec 8) : Statement (.emitNear k) := by
  refine ⟨rfl, ?_⟩
  have h : (0xFF#8 ++ k) &&& 0xFF00#16 = 0xFF00#16 := by
    apply BitVec.eq_of_getLsbD_eq
    intro i hi
    rw [BitVec.getLsbD_and, BitVec.getLsbD_append]
    interval_cases i <;> simp
  simpa [bitsOfCode, encode, rowOf] using congrArg BitVec.toNat h

theorem emitWide (k : BitVec 15) : Statement (.emitWide k) := by
  refine ⟨rfl, ?_⟩
  have h : (1#1 ++ k) &&& 0x8000#16 = 0x8000#16 := by
    apply BitVec.eq_of_getLsbD_eq
    intro i hi
    rw [BitVec.getLsbD_and, BitVec.getLsbD_append]
    interval_cases i <;> simp
  simpa [bitsOfCode, encode, rowOf] using congrArg BitVec.toNat h

theorem node (n : NodeId) : Statement (.node n) := by
  refine ⟨rfl, ?_⟩
  have h : (0x00#8 ++ n) &&& 0xFF00#16 = 0x0000#16 := by
    apply BitVec.eq_of_getLsbD_eq
    intro i hi
    rw [BitVec.getLsbD_and, BitVec.getLsbD_append]
    interval_cases i <;> simp
  simpa [bitsOfCode, encode, rowOf] using congrArg BitVec.toNat h

theorem rsvd (k : BitVec 15) : Statement (.rsvd k) := by
  refine ⟨rfl, ?_⟩
  have h : (0#1 ++ k) &&& 0x8000#16 = 0x0000#16 := by
    apply BitVec.eq_of_getLsbD_eq
    intro i hi
    rw [BitVec.getLsbD_and, BitVec.getLsbD_append]
    interval_cases i <;> simp
  simpa [bitsOfCode, encode, rowOf] using congrArg BitVec.toNat h

theorem start (r : BitVec 7) : Statement (.start r) := by
  refine ⟨rfl, ?_⟩
  have h : (r ++ 1#1) &&& 0x01#8 = 0x01#8 := by
    apply BitVec.eq_of_getLsbD_eq
    intro i hi
    rw [BitVec.getLsbD_and, BitVec.getLsbD_append]
    interval_cases i <;> simp
  simpa [bitsOfCode, encode, rowOf] using congrArg BitVec.toNat h

end Sys2Proof.Laws.RowMatch
end

