-- ==== Sys2Proof/Laws/Step.lean ====
section
/-! SUPPORT. What one step can do: the configuration check, whose move it is, and everything that move can answer. -/

namespace Sys2Proof.Machine

/-- A step answers only where the configuration is admitted. -/
theorem step_of_config {s : State} (h : configRefusal s = none) : step s = nextMove s := by
  simp [step, h]

theorem step_next {s t : State} (h : step s = .next t) : configRefusal s = none ∧ nextMove s = .next t := by
  unfold step at h
  split at h
  · cases h
  · exact ⟨‹_›, h⟩

theorem walk_busy {s : State} (h : s.state = .busy) : walk s = bitStep s := by
  simp [walk, h]

theorem walk_waits {s : State} (h : s.state ≠ .busy) : walk s = .next s := by
  unfold walk
  split
  · exact absurd ‹_› h
  all_goals rfl

/-- What the walker's move can answer: it waits, or it runs the slot it fetched. -/
theorem walk_next_cases {s t : State} (h : walk s = .next t) :
    (s.state ≠ .busy ∧ t = s) ∨
      (s.state = .busy ∧ s.srcOff < s.srcSize ∧ bitnumLegal s.bitnum = true ∧
        exec (decodeSlot (romWord s.rom s.node (sourceBit s))) s = .next t) := by
  by_cases hb : s.state = .busy
  · rw [walk_busy hb] at h
    unfold bitStep fetchSlot at h
    split_ifs at h with h1 h2
    exact .inr ⟨hb, h1, h2, h⟩
  · rw [walk_waits hb] at h
    exact .inl ⟨hb, (Host.Outcome.next.inj h).symm⟩

/-- When the host owns the bytes it stores to. -/
theorem storeRefusal_none_iff {i : Nat} {s : State} : storeRefusal i s = none ↔ s.state = .idle ∨ s.state = .done := by
  unfold storeRefusal
  split <;> simp_all

/-- What a host move can answer. -/
theorem hostMove_next_cases {op : HostOp} {s t : State} (h : hostMove op s = .next t) :
    (∃ v, op = .writeReg 0 v ∧
        (t = s ∨ ∃ r, decodeCtrl (BitVec.ofNat 8 v) = .ok (.start r) ∧ exec (.start r) s = .next t)) ∨
      (∃ n v, op = .writeReg n v ∧ n ≠ 0 ∧ t = writeOperand n v s) ∨
      (∃ n v, op = .readReg n ∧ readRegister n s = .value v ∧ t = { s with readData := some v }) ∨
      (∃ i b, op = .storeSrc i b ∧ i < s.srcSize ∧ (s.state = .idle ∨ s.state = .done) ∧ t = writeSrc s i b) ∨
      (∃ i b, op = .storeDst i b ∧ i < s.dstSize ∧ (s.state = .idle ∨ s.state = .done) ∧ t = writeDst s i b) ∨
      (op = .reset ∧ t = applyReset s) ∨
      (op = .idle ∧ walk s = .next t) := by
  cases op with
  | writeReg n v =>
    by_cases hn : n = 0
    · subst hn
      refine .inl ⟨v, rfl, ?_⟩
      simp only [hostMove, if_pos, writeCtrl] at h
      unfold decodeCtrl at h ⊢
      split_ifs at h ⊢ with hb
      · exact .inr ⟨_, rfl, h⟩
      · exact .inl (Host.Outcome.next.inj h).symm
    · simp only [hostMove, if_neg hn] at h
      exact .inr (.inl ⟨n, v, rfl, hn, (Host.Outcome.next.inj h).symm⟩)
  | readReg n =>
    simp only [hostMove] at h
    split at h
    · exact .inr (.inr (.inl ⟨n, _, rfl, ‹_›, (Host.Outcome.next.inj h).symm⟩))
    · cases h
  | storeSrc i b =>
    simp only [hostMove, hostStoreSrc] at h
    split at h
    · split at h
      · cases h
      · exact .inr (.inr (.inr (.inl ⟨i, b, rfl, ‹_›, storeRefusal_none_iff.mp ‹_›, (Host.Outcome.next.inj h).symm⟩)))
    · cases h
  | storeDst i b =>
    simp only [hostMove, hostStoreDst] at h
    split at h
    · split at h
      · cases h
      · exact .inr (.inr (.inr (.inr (.inl
          ⟨i, b, rfl, ‹_›, storeRefusal_none_iff.mp ‹_›, (Host.Outcome.next.inj h).symm⟩))))
    · cases h
  | reset => exact .inr (.inr (.inr (.inr (.inr (.inl ⟨rfl, (Host.Outcome.next.inj h).symm⟩)))))
  | idle => exact .inr (.inr (.inr (.inr (.inr (.inr ⟨rfl, h⟩)))))

/-- Whose move a step is, in an admitted configuration: the walker's where no host move is left, else the host's next. -/
theorem step_next_cases {s t : State} (h : step s = .next t) :
    (s.inputs = [] ∧ walk s = .next t) ∨
      ∃ op rest, s.inputs = op :: rest ∧ hostMove op { s with inputs := rest } = .next t := by
  obtain ⟨_, h⟩ := step_next h
  unfold nextMove at h
  split at h
  · exact .inl ⟨‹_›, h⟩
  · exact .inr ⟨_, _, ‹_›, h⟩

end Sys2Proof.Machine
end

