-- ==== Sys2Proof/Laws/Run.lean ====
section
/-! SUPPORT. Runs of several steps: how `runFor` unrolls, and what a silent host leaves to the walker. -/

namespace Sys2Proof

open Sys2Proof.Machine

@[simp] theorem runFor_zero (s : State) : runFor 0 s = .next s := rfl

/-- A run of one more step begins with that step. -/
theorem runFor_succ (k : Nat) {s t : State} (h : step s = .next t) : runFor (k + 1) s = runFor k t := by
  have h' : core.step s = .next t := h
  simp only [runFor, Host.Core.run, h']
  rfl

/-- A run goes on from where a shorter one stands. -/
theorem runFor_add (k j : Nat) {s t : State} (h : runFor k s = .next t) : runFor (k + j) s = runFor j t := by
  induction k generalizing s with
  | zero => cases h; rw [Nat.zero_add]
  | succ k ih =>
    cases hs : step s with
    | next u =>
      rw [runFor_succ k hs] at h
      rw [Nat.add_right_comm, runFor_succ (k + j) hs, ih h]
    | fault f =>
      have h' : core.step s = .fault f := hs
      simp [runFor, Host.Core.run, h'] at h
    | refused r =>
      have h' : core.step s = .refused r := hs
      simp [runFor, Host.Core.run, h'] at h

/-- With no host move left, a step of an admitted configuration is the walker's. -/
theorem step_silent {s : State} (hc : configRefusal s = none) (hin : s.inputs = []) : step s = walk s := by
  rw [step_of_config hc]
  simp [nextMove, hin]

/-- With no host move left and no call running, the machine waits. -/
theorem runFor_waits (k : Nat) {s : State} (hc : configRefusal s = none) (hin : s.inputs = []) (hb : s.state ≠ .busy) :
    runFor k s = .next s := by
  induction k with
  | zero => rfl
  | succ k ih => rw [runFor_succ k (by rw [step_silent hc hin, walk_waits hb]), ih]

end Sys2Proof
end

