-- ==== Sys2Proof/Tests/Slice0.lean ====
section
/-! SUPPORT. Tests whose expected values come from spec/95_test_vectors.md (the vector's name stands in the comment), the
smoke test of the well-formedness checks, and for every statement with hypotheses a witness that meets them together. -/

namespace Sys2Proof.Tests

open Sys2Proof Sys2Proof.Machine

/-! ### Helpers -/

/-- The outcome is a next state with the property. -/
def after (o : Host.Outcome State Fault Refusal) (p : State → Bool) : Bool :=
  match o with
  | .next t => p t
  | .fault _ | .refused _ => false

/-- The outcome is this refusal. -/
def refusedWith (o : Host.Outcome State Fault Refusal) (r : Refusal) : Bool :=
  match o with
  | .refused r' => r' = r
  | .next _ | .fault _ => false

/-- The outcome is this fault. -/
def faultedWith (o : Host.Outcome State Fault Refusal) (f : Fault) : Bool :=
  match o with
  | .fault f' => f' = f
  | .next _ | .refused _ => false

/-- Table T1 of 95_test_vectors.md part 1. -/
def tableT1 : List (Nat × SlotWord) := [(0, 0xFFBF), (1, 0x0001), (2, 0xFFBE), (3, 0x0002), (4, 0x0000)]

/-- Table T2. -/
def tableT2 : List (Nat × SlotWord) :=
  [(0, 0x0000), (1, 0x0001), (3, 0x0003), (6, 0xFF01), (7, 0x0006), (12, 0x000C), (13, 0xFF80), (24, 0xFFFE), (25, 0xFFFF)]

/-- A table with one slot of class RSVD. -/
def tableBad : List (Nat × SlotWord) := [(511, 0x0100)]

/-- After reset, with T1, two source bytes and room for eight. -/
def idleT1 : State :=
  { State.reset with rom := tableT1, src := [(0, 0x59), (1, 0xC0)], srcSize := 2, dstSize := 8 }

/-- The same with operands written. -/
def withOperands (s : State) (off len doff : Nat) : State :=
  { s with srcOff := off, srcLen := len, dstOff := doff, srcOffHeld := true, srcLenHeld := true, dstOffHeld := true }

/-- Program P1 at its `START`. -/
def readyP1 : State := { withOperands idleT1 0 2 0 with inputs := [.writeReg 0 1] }

/-- A call of section 3.5: table T1, `END_POS = 2`, `DST_OFF = 0`, `DST_SIZE = 8`, the source byte at `SRC_OFF`. -/
def busyAt (off : Nat) (bn : BitVec 4) (n : NodeId) (dest : Nat) (byte : Byte) : State :=
  { withOperands idleT1 off 2 0 with
    src := Memory.write Config.unlistedByte [] off byte
    bitnum := bn, node := n, destPos := dest, endPos := 2, state := .busy }

/-- A state in `FAULT` after `DST_OVERFLOW` (F3 with T1's table). -/
def faulted : State := { withOperands idleT1 0 2 0 with state := .fault, faultCode := .dstOverflow }

/-- A state in `DONE` after a complete call of four bytes. -/
def doneFour : State := { withOperands idleT1 2 2 0 with state := .done, success := true, bytesWritten := 4 }

/-- The next moves of the host. -/
def hostSays (s : State) (ops : List HostOp) : State := { s with inputs := ops }

/-! ### Well-formedness: an ill-formed term for each check -/

theorem test_emitNear_zero_is_illFormed : Instr.wellFormed (.emitNear 0x00) = false := by decide
theorem test_emitWide_allOnes_is_illFormed : Instr.wellFormed (.emitWide 0x7F12) = false := by decide
theorem test_node_zero_is_illFormed : Instr.wellFormed (.node 0x00) = false := by decide
theorem test_rsvd_small_is_illFormed : Instr.wellFormed (.rsvd 0x00FF) = false := by decide

/-! ### Decoding: words written out from R67 and R71 -/

/-- `1111111100000000` (section 3.1). -/
theorem test_decode_end : decodeSlot 0b1111111100000000 = .endMessage := by decide
/-- `0000000000000000`. -/
theorem test_decode_emit_zero : decodeSlot 0b0000000000000000 = .emitZero := by decide
/-- `11111111kkkkkkkk`: -65 is byte 0x41. -/
theorem test_decode_emit_near :
    decodeSlot 0b1111111110111111 = .emitNear 0xBF ∧ byteOfInstr (.emitNear 0xBF) = some 0x41 ∧
      byteOfInstr (decodeSlot 0xFF01) = some 0xFF ∧ byteOfInstr (decodeSlot 0xFF80) = some 0x80 := by decide
/-- `1kkkkkkkkkkkkkkk`: -257 is byte 0x01, -512 and -32768 are byte 0x00. -/
theorem test_decode_emit_wide :
    decodeSlot 0b1111111011111111 = .emitWide 0x7EFF ∧ byteOfInstr (.emitWide 0x7EFF) = some 0x01 ∧
      byteOfInstr (decodeSlot 0xFE00) = some 0x00 ∧ byteOfInstr (decodeSlot 0x8000) = some 0x00 := by decide
/-- `00000000nnnnnnnn`. -/
theorem test_decode_node : decodeSlot 0b0000000011111111 = .node 255 ∧ decodeSlot 1 = .node 1 := by decide
/-- `0kkkkkkkkkkkkkkk`. -/
theorem test_decode_rsvd : decodeSlot 0b0000000100000000 = .rsvd 0x0100 ∧ decodeSlot 0x7FFF = .rsvd 0x7FFF := by decide
/-- A7, A8: bit 0 alone decides. -/
theorem test_decode_start :
    decodeCtrl 0b11111111 = .ok (.start 0b1111111) ∧ decodeCtrl 0b11111110 = .error .startBitClear := by decide
/-- The numbering of the opcode table. -/
theorem test_decodeTableWord :
    decodeTableWord 16 0xFF00 = some .endMessage ∧ decodeTableWord 16 0x000C = some (.node 12) ∧
      decodeTableWord 8 0x01 = some (.start 0) ∧ decodeTableWord 8 0x00 = none ∧ decodeTableWord 16 0x10000 = none ∧
      decodeTableWord 32 0 = none := by decide

/-! ### Lookup and bit extraction -/

/-- Section 3.2. -/
theorem test_lookup :
    tableNext tableT1 0 false = -65 ∧ tableNext tableT1 0 true = 1 ∧ tableNext tableT1 2 false = 0 ∧
      tableNext tableT1 2 true = -256 ∧ tableNext tableT1 255 false = -256 ∧ slotAddress 2 true = 5 ∧
      tableNext tableT2 6 false = 12 ∧ tableNext tableT2 6 true = -128 ∧ tableNext tableT2 12 true = -1 := by decide
/-- Section 3.3: 0x59 from bit 7 down. -/
theorem test_bits : [8, 7, 6, 5, 4, 3, 2, 1].map (bitOf 0x59) = [false, true, false, true, true, false, false, true] := by
  decide

/-! ### The instructions, one step each -/

/-- B5. -/
theorem test_end : after (walk (busyAt 1 7 2 4 0xC0)) (fun t =>
    t.srcOff = 2 && t.success && t.bytesWritten = 4 && t.state = .done && t.dst = []) = true := by decide
/-- B8, B10: the last bit of the source, and a full destination. -/
theorem test_end_wins :
    after (walk (busyAt 1 1 2 4 0x01)) (fun t => t.srcOff = 2 && t.success && t.bytesWritten = 4) = true ∧
      after (walk (busyAt 0 8 2 8 0x80)) (fun t => t.srcOff = 1 && t.success && t.bytesWritten = 8) = true := by decide
/-- B3: a stored 0 emits the byte 0x00. -/
theorem test_emitZero : after (exec .emitZero { busyAt 0 3 2 2 0x59 with dst := [(2, 0x77)] }) (fun t =>
    readDst t 2 = 0x00 && t.dst = [] && t.destPos = 3 && t.node = 0 && t.bitnum = 2 && t.state = .busy) = true := by decide
/-- B1. -/
theorem test_emitNear : after (walk (busyAt 0 8 0 0 0x59)) (fun t =>
    t.dst = [(0, 0x41)] && t.destPos = 1 && t.node = 0 && t.bitnum = 7 && t.srcOff = 0 && t.state = .busy) = true := by decide
/-- B6 and B9: on the last bit, and with no room. -/
theorem test_emitNear_ends :
    after (walk (busyAt 1 1 0 4 0x00)) (fun t =>
      t.dst = [(4, 0x41)] && t.srcOff = 2 && t.state = .done && !t.success && t.bytesWritten = 5) = true ∧
    after (walk (busyAt 0 8 0 8 0x00)) (fun t => t.state = .fault && t.faultCode = .dstOverflow && t.dst = [] &&
      t.srcOff = 0 && t.bitnum = 8 && t.destPos = 8 && t.bytesWritten = 0) = true := by decide
/-- Section 3.1: -257 emits 0x01. -/
theorem test_emitWide : after (exec (.emitWide 0x7EFF) (busyAt 0 8 0 0 0x59)) (fun t =>
    t.dst = [(0, 0x01)] && t.destPos = 1 && t.node = 0) = true := by decide
/-- B2. -/
theorem test_node : after (walk (busyAt 0 7 0 1 0x59)) (fun t =>
    t.node = 1 && t.bitnum = 6 && t.srcOff = 0 && t.destPos = 1 && t.dst = [] && t.state = .busy) = true := by decide
/-- B4 and B7: at a byte boundary, and on the last bit. -/
theorem test_node_boundary :
    after (walk (busyAt 0 1 0 4 0x59)) (fun t => t.srcOff = 1 && t.bitnum = 8 && t.node = 1 && t.state = .busy) = true ∧
    after (walk (busyAt 1 1 1 4 0x01)) (fun t =>
      t.srcOff = 2 && t.state = .done && !t.success && t.bytesWritten = 4) = true := by decide
/-- Where a call reads a slot of class RSVD the reference function has no result (R66; log 27). -/
theorem test_decompress_outsideRange :
    decompress [(0, 0x0100), (1, 0x0100)] [(0, 0x59)] 1 0 1 [] 8 0 = .outsideRange := by decide
/-- Section 3.1: refused. -/
theorem test_rsvd : refusedWith (exec (.rsvd 0x0100) (busyAt 0 8 0 0 0x59)) .tableFailsWfRange = true := by decide
/-- S1. -/
theorem test_start : after (exec (.start 0) (withOperands idleT1 0 2 0)) (fun t =>
    t.state = .busy && t.node = 0 && t.bitnum = 8 && t.destPos = 0 && t.endPos = 2) = true := by decide
/-- S3, S7 and S10. -/
theorem test_start_limits :
    after (exec (.start 0) { withOperands idleT1 2 0 8 with state := .done }) (fun t =>
      t.state = .done && !t.success && t.bytesWritten = 0 && t.srcOff = 2) = true ∧
    after (exec (.start 0) { withOperands idleT1 0 2 9 with srcSize := 1 }) (fun t =>
      t.state = .fault && t.faultCode = .srcRange) = true ∧
    after (exec (.start 0) { withOperands idleT1 4294967295 4294967295 0 with srcSize := 4294967295 }) (fun t =>
      t.state = .fault && t.faultCode = .srcRange) = true := by decide

/-! ### Registers and reset -/

/-- A1 to A6, and a register that does not exist. -/
theorem test_status :
    statusByte State.reset = 0x00 ∧ statusByte doneFour = 0x06 ∧ statusByte { doneFour with success := false } = 0x02 ∧
      statusByte faulted = 0x33 ∧ statusByte (busyAt 0 8 0 0 0x59) = 0x01 ∧ readRegister 0 doneFour = .value 0 ∧
      readRegister 6 doneFour = .value 0 ∧ readRegister 5 doneFour = .value 4 := by decide
/-- A7, A9, A10. -/
theorem test_ignored_writes :
    after (step (hostSays (withOperands idleT1 0 2 0) [.writeReg 0 0xFE])) (fun t => t.state = .idle) = true ∧
      after (step (hostSays doneFour [.writeReg 5 9])) (fun t => t.bytesWritten = 4) = true ∧
      after (step (hostSays (busyAt 0 8 0 0 0x59) [.writeReg 2 7])) (fun t => t.srcOff = 0 && t.state = .busy) = true := by decide
/-- A8, A11. -/
theorem test_start_write :
    after (step (hostSays (withOperands idleT1 0 2 0) [.writeReg 0 0xFF])) (fun t => t.state = .busy) = true ∧
      refusedWith (step (hostSays { withOperands idleT1 0 2 0 with dstOffHeld := false } [.writeReg 0 1]))
        (.startWithoutValue .dstOff) = true := by decide
/-- F4, F5. -/
theorem test_fault_and_reset :
    after (runFor 2 (hostSays faulted [.writeReg 3 0, .writeReg 0 1])) (fun t => t.state = .fault && t.srcLen = 2) = true ∧
      after (step (hostSays { faulted with dst := [(0, 1), (1, 1)] } [.reset])) (fun t =>
        t.state = .idle && t.faultCode = .none && t.bytesWritten = 0 && !t.srcOffHeld && !t.srcLenHeld &&
          !t.dstOffHeld && t.dst = [(0, 1), (1, 1)]) = true := by decide
/-- The host's stores: outside its span, while a call runs, in `FAULT`, and into its memory between calls (log 12). -/
theorem test_host_stores :
    faultedWith (step (hostSays idleT1 [.storeSrc 2 1])) (.hostStoreOutsideSpan 2) = true ∧
      refusedWith (step (hostSays (busyAt 0 8 0 0 0x59) [.storeSrc 1 1])) (.hostStoreDuringCall 1) = true ∧
      refusedWith (step (hostSays { busyAt 0 8 0 4 0x59 with dstOff := 4 } [.storeDst 0 1])) (.hostStoreDuringCall 0) = true ∧
      refusedWith (step (hostSays faulted [.storeDst 0 1])) (.hostStoreInFault 0) = true ∧
      after (step (hostSays idleT1 [.storeDst 7 1])) (fun t => t.dst = [(7, 1)]) = true := by decide
/-- The placed instruction is the one the first step after reset runs (log 18). -/
theorem test_withFetchWord :
    after (step (State.reset.withFetchWord 16 0xFF00)) (fun t => t.state = .done && t.success && t.srcOff = 1) = true ∧
      after (step (State.reset.withFetchWord 16 0xFFBF)) (fun t => t.dst = [(0, 0x41)] && t.bitnum = 7) = true ∧
      after (step (State.reset.withFetchWord 16 0x00FF)) (fun t => t.node = 255) = true ∧
      refusedWith (step (State.reset.withFetchWord 16 0x7FFF)) .tableFailsWfRange = true ∧
      after (step (State.reset.withFetchWord 8 0x01)) (fun t => t.state = .done && !t.success) = true := by decide

/-! ### Witnesses: for every statement with hypotheses, data that meets them together, at the boundaries of its clauses -/

/-- A state of `idleT1` with operands, its next move a `START`. -/
def readyAt (off len doff : Nat) : State := hostSays (withOperands idleT1 off len doff) [.writeReg 0 1]

theorem witness_inv_idle : Inv idleT1 :=
  ⟨by decide, ⟨by decide, by decide, by decide, by decide, by decide, by decide⟩,
    ⟨by decide, by decide, by decide, by decide, by decide, by decide⟩, ⟨by decide, by decide, by decide, by decide⟩,
    fun h => absurd h (by decide)⟩

/-- The other end of the values of `CTRL` with bit 0 set. -/
theorem witness_start_value : ∃ v, v < 256 ∧ v % 2 = 1 ∧ (hostSays idleT1 [.writeReg 0 0xFF]).inputs = [.writeReg 0 v] :=
  ⟨0xFF, by decide, by decide, rfl⟩

/-- Every `readyAt` with operands of 32 bits meets the invariant and is ready. -/
theorem witness_ready (off len doff : Nat) (h1 : off < 2 ^ 32) (h2 : len < 2 ^ 32) (h3 : doff < 2 ^ 32) :
    Inv (readyAt off len doff) ∧ ReadyToStart (readyAt off len doff) :=
  have ⟨c, m, w, f, _⟩ := witness_inv_idle
  ⟨⟨c, ⟨m.1, m.2, m.3, m.4, m.5, m.6⟩, ⟨h1, w.2, w.3, h2, h3, w.6⟩, ⟨f.1, f.2, f.3, f.4⟩,
      fun h => CallState.noConfusion h⟩,
    ⟨c, .inl rfl, ⟨rfl, rfl, rfl⟩, 1, by decide, by decide, rfl⟩⟩

/-- A call at its first bit meets the invariant. -/
theorem witness_busy_first : Inv (busyAt 0 8 0 0 0x59) :=
  ⟨by decide, ⟨by decide, by decide, by decide, by decide, by decide, by decide⟩,
    ⟨by decide, by decide, by decide, by decide, by decide, by decide⟩, ⟨by decide, by decide, by decide, by decide⟩,
    fun _ => ⟨by decide, by decide, by decide, by decide, by decide, by decide, by decide, by decide, by decide, by decide,
      ⟨rfl, rfl, rfl⟩⟩⟩

/-- So does a call at its last bit. -/
theorem witness_busy_last : Inv (busyAt 1 1 1 4 0x01) :=
  ⟨by decide, ⟨by decide, by decide, by decide, by decide, by decide, by decide⟩,
    ⟨by decide, by decide, by decide, by decide, by decide, by decide⟩, ⟨by decide, by decide, by decide, by decide⟩,
    fun _ => ⟨by decide, by decide, by decide, by decide, by decide, by decide, by decide, by decide, by decide, by decide,
      ⟨rfl, rfl, rfl⟩⟩⟩

theorem witness_DecodeOfEncodeIsTheInstruction :
    Instr.wellFormed .endMessage ∧ Instr.wellFormed .emitZero ∧ Instr.wellFormed (.emitNear 0x01) ∧
      Instr.wellFormed (.emitNear 0xFF) ∧ Instr.wellFormed (.emitWide 0x0000) ∧ Instr.wellFormed (.emitWide 0x7EFF) ∧
      Instr.wellFormed (.node 0x01) ∧ Instr.wellFormed (.node 0xFF) ∧ Instr.wellFormed (.rsvd 0x0100) ∧
      Instr.wellFormed (.rsvd 0x7FFF) ∧ Instr.wellFormed (.start 0x7F) := by decide

theorem witness_RowsPartitionTheSlotWords :
    Instr.wellFormed (.emitNear 0x01) ∧ encode (.emitNear 0x01) = .slot 0xFF01 := by decide

theorem witness_SlotWordReadsTwosComplement :
    (0x7FFF#16).toNat ≤ 0x7FFF ∧ 0x8000 ≤ (0x8000#16).toNat ∧ slotValue 0x7FFF = 32767 ∧ slotValue 0x8000 = -32768 := by
  decide

theorem witness_TerminalEmitsItsNegatedValue :
    slotValue 0xFF01 ≤ 0 ∧ slotValue 0xFF01 ≠ -256 ∧ slotValue 0xFEFF ≤ 0 ∧ slotValue 0xFEFF ≠ -256 ∧
      slotValue 0 ≤ 0 ∧ slotValue 0 ≠ -256 ∧ emittedByte (-255) = 0xFF := by decide

theorem witness_InternalNodeNamesItsTarget :
    1 ≤ slotValue 0x0001 ∧ slotValue 0x00FF ≤ 255 ∧ 1 ≤ slotValue 0x00FF ∧ slotValue 0x0001 ≤ 255 := by decide

theorem witness_SlotAddressesAreTheFirst512 : slotAddress 0xFF true = 511 ∧ slotAddress 0 false = 0 := by decide

/-- T1 is in range: its listed slots are, and every other holds the sentinel. -/
theorem wfRange_T1 : WfRange tableT1 := wfRange_of_romInRange (by decide)

theorem witness_TableOutsideRangeIsRefused :
    ¬ WfRange tableBad ∧ WfRange tableT1 ∧ Memory.wf Config.unlistedSlot tableT1 = true ∧
      Memory.below 512 tableT1 = true :=
  ⟨fun h => absurd (h 255 true).2 (by decide), wfRange_T1, by decide, by decide⟩

theorem witness_ReservedSlotHasNoStep : 256 ≤ slotValue 0x0100 ∧ 256 ≤ tableNext tableBad 255 true := by decide

theorem witness_CodewordsArePrefixFree :
    leafOf tableT1 0 [true, false] = some (-66) ∧ leafOf tableT1 0 ([true, false] ++ []) = some (-66) := by decide

/-- The edges of T1: `0 -1-> 1` and `1 -1-> 2`. -/
theorem nodeEdge_T1 {n m : NodeId} {b : Bool} (h : NodeEdge tableT1 n b m) :
    b = true ∧ (n = 0 ∧ m = 1 ∨ n = 1 ∧ m = 2) := by
  obtain ⟨hc, rfl⟩ := h
  unfold tableNext romWord at hc ⊢
  rcases read_cases (d := Config.unlistedSlot) tableT1 (slotAddress n b) with hr | hr
  · rw [hr] at hc
    exact absurd hc (by decide)
  · generalize hw : Memory.read Config.unlistedSlot tableT1 (slotAddress n b) = w at hc hr ⊢
    have hn := n.isLt
    simp only [tableT1, List.mem_cons, Prod.mk.injEq, List.not_mem_nil, or_false] at hr
    have hb := b.toNat_le
    have key : ∀ k : Nat, slotAddress n b = 2 * k + 1 → b = true ∧ n.toNat = k := by
      intro k hk
      cases b <;> simp only [slotAddress, Bool.toNat_false, Bool.toNat_true] at hk <;> first | omega | exact ⟨rfl, by omega⟩
    rcases hr with ⟨ha, rfl⟩ | ⟨ha, rfl⟩ | ⟨ha, rfl⟩ | ⟨ha, rfl⟩ | ⟨ha, rfl⟩
    · exact absurd hc (by decide)
    · obtain ⟨rfl, h0⟩ := key 0 ha
      exact ⟨rfl, .inl ⟨BitVec.eq_of_toNat_eq h0, by decide⟩⟩
    · exact absurd hc (by decide)
    · obtain ⟨rfl, h0⟩ := key 1 ha
      exact ⟨rfl, .inr ⟨BitVec.eq_of_toNat_eq h0, by decide⟩⟩
    · exact absurd hc (by decide)

/-- Every path of T1 climbs. -/
theorem nodePath_T1 {n m : NodeId} (h : NodePath tableT1 n m) : n.toNat < m.toNat := by
  induction h with
  | edge he => rcases nodeEdge_T1 he with ⟨_, ⟨rfl, rfl⟩ | ⟨rfl, rfl⟩⟩ <;> decide
  | cons he _ ih => rcases nodeEdge_T1 he with ⟨_, ⟨rfl, rfl⟩ | ⟨rfl, rfl⟩⟩ <;> exact lt_trans (by decide) ih

theorem witness_TreeWalksEndWithin256Bits : WfTree tableT1 ∧ 256 ≤ (List.replicate 256 true).length :=
  ⟨{ inRange := wfRange_T1
     oneParent := fun _ _ h1 h2 => by
       rcases nodeEdge_T1 h1 with ⟨rfl, ⟨rfl, hk⟩ | ⟨rfl, hk⟩⟩ <;> rcases nodeEdge_T1 h2 with ⟨rfl, ⟨rfl, hk'⟩ | ⟨rfl, hk'⟩⟩ <;>
         simp_all
     noneToRoot := fun _ h => by
       rcases nodeEdge_T1 h with ⟨_, ⟨_, hk⟩ | ⟨_, hk⟩⟩ <;> exact absurd hk (by decide)
     acyclic := fun _ h => lt_irrefl _ (nodePath_T1 h) },
   by rw [List.length_replicate]⟩

/-- T2 has the five slots. -/
theorem witness_ScenarioPathIsACodewordOfOne : ScenarioPath tableT2 := by
  unfold ScenarioPath; decide

theorem witness_ResetGivesTheSpecValues : ∃ s u : State, s = applyReset u ∧ u.state = .busy :=
  ⟨_, busyAt 0 8 0 0 0x59, rfl, rfl⟩

theorem witness_ResetInAnyStateAndOnlyExitFromFault :
    (configRefusal (hostSays (busyAt 0 8 0 0 0x59) [.reset]) = none) ∧
      ∃ t, faulted.state = .fault ∧ step (hostSays faulted [.reset]) = .next t ∧ t.state ≠ .fault :=
  ⟨by decide, _, rfl, rfl, by decide⟩

theorem witness_StatusRegisterLayout :
    StatusInv faulted ∧ StatusInv doneFour ∧ (statusByte faulted).extractLsb' 4 3 = 3 ∧
      (statusByte doneFour).extractLsb' 4 3 = 0 :=
  ⟨⟨by decide, by decide, by decide, by decide⟩, ⟨by decide, by decide, by decide, by decide⟩, by decide, by decide⟩

/-- Each register and both sides of "holds a value". -/
theorem witness_HostReadsByRegisterAndState :
    configRefusal (hostSays doneFour [.readReg 0]) = none ∧
    [0, 1, 2, 3, 4, 5, 6, 7].map (fun n => after (step (hostSays doneFour [.readReg n])) (fun t =>
      t.readData = some ([0, 6, 2, 2, 0, 4, 0, 0].getD n 9))) = List.replicate 8 true ∧
    after (step (hostSays (busyAt 0 8 0 0 0x59) [.readReg 5])) (fun t => t.readData = some 0) = true ∧
    refusedWith (step (hostSays idleT1 [.readReg 2])) (.readWithoutValue .srcOff) = true ∧
    refusedWith (step (hostSays idleT1 [.readReg 3])) (.readWithoutValue .srcLen) = true ∧
    refusedWith (step (hostSays idleT1 [.readReg 4])) (.readWithoutValue .dstOff) = true := by decide

theorem witness_HostWritesTakeEffectInIdleAndDone :
    configRefusal (hostSays idleT1 [.writeReg 2 7]) = none ∧ idleT1.state = .idle ∧ doneFour.state = .done ∧
    after (step (hostSays idleT1 [.writeReg 2 7])) (fun t => t.srcOff = 7 && t.srcOffHeld) = true ∧
    after (step (hostSays doneFour [.writeReg 3 4294967296])) (fun t => t.srcLen = 0) = true ∧
    after (step (hostSays idleT1 [.writeReg 4 1])) (fun t => t.dstOff = 1 && t.dstOffHeld) = true ∧
    after (step (hostSays doneFour [.writeReg 1 1])) (fun t => t.state = .done) = true := by decide

theorem witness_HostWritesIgnoredInBusyAndFault :
    configRefusal (hostSays (busyAt 0 8 0 0 0x59) [.writeReg 0 1]) = none ∧ (busyAt 0 8 0 0 0x59).state = .busy ∧
      configRefusal (hostSays faulted [.writeReg 3 0]) = none ∧ faulted.state = .fault := by decide

theorem witness_CtrlWriteWithoutStartHasNoEffect :
    configRefusal (hostSays idleT1 [.writeReg 0 0xFE]) = none ∧ 0xFE % 2 = 0 := by decide

theorem witness_StartStepFollowsItsRule :
    (busyAt 0 8 0 0 0x59).state = .busy ∧ faulted.state = .fault ∧
      ((readyAt 0 2 0).state = .idle ∧ (readyAt 0 2 0).srcOffHeld ∧ (readyAt 0 2 0).srcLenHeld ∧
        (readyAt 0 2 0).dstOffHeld) := by decide

/-- The window and the offset at their limits. -/
theorem witness_StartBeginsACall :
    (readyAt 1 1 8).state = .idle ∧ (readyAt 1 1 8).srcOffHeld ∧ (readyAt 1 1 8).srcLenHeld ∧
      (readyAt 1 1 8).dstOffHeld ∧ (readyAt 1 1 8).srcOff + (readyAt 1 1 8).srcLen ≤ (readyAt 1 1 8).srcSize ∧
      (readyAt 1 1 8).dstOff ≤ (readyAt 1 1 8).dstSize ∧ 0 < (readyAt 1 1 8).srcLen := by decide

/-- S3 and S5: the two sides of `SRC_OFF = SRC_SIZE`, `SRC_LEN = 0`. -/
theorem witness_SourceRangeFaultAtStart :
    (readyAt 2 0 8).state = .idle ∧ (readyAt 2 0 8).srcOff = (readyAt 2 0 8).srcSize ∧ (readyAt 2 0 8).srcLen = 0 ∧
      (readyAt 2 0 8).dstOff ≤ (readyAt 2 0 8).dstSize ∧
      (readyAt 3 0 8).srcSize < (readyAt 3 0 8).srcOff + (readyAt 3 0 8).srcLen := by decide

/-- S6: one past the limit. -/
theorem witness_DestinationRangeFaultAtStart :
    (readyAt 0 1 9).state = .idle ∧ (readyAt 0 1 9).srcOffHeld ∧ (readyAt 0 1 9).srcLenHeld ∧
      (readyAt 0 1 9).dstOffHeld ∧ (readyAt 0 1 9).dstSize < (readyAt 0 1 9).dstOff := by decide

theorem witness_StartWithoutOperandsIsRefused :
    idleT1.state = .idle ∧ idleT1.srcOffHeld = false ∧
      ((readyAt 0 2 0).srcOffHeld = true ∧ { readyAt 0 2 0 with srcLenHeld := false }.srcLenHeld = false) ∧
      { readyAt 0 2 0 with dstOffHeld := false }.dstOffHeld = false := by decide

theorem witness_EndFinishesComplete : (busyAt 1 7 2 4 0xC0).state = .busy := by decide

/-- Each row of `EMIT`, with room for exactly one byte and with none. -/
theorem witness_EmitStoresItsByteAndRestarts :
    (busyAt 0 8 0 7 0x59).state = .busy ∧ (busyAt 0 8 0 7 0x59).destPos < (busyAt 0 8 0 7 0x59).dstSize ∧
      (busyAt 0 8 0 8 0x59).dstSize ≤ (busyAt 0 8 0 8 0x59).destPos ∧ BitVec.ofNat 8 (0x100 - (0xBF#8).toNat) = 0x41#8 ∧
      BitVec.ofNat 8 (0x10000 - (0x8000 + (0x7EFF#15).toNat)) = 0x01#8 := by decide

theorem witness_OverflowIsAnEmitWithoutRoom :
    ∃ t u, (busyAt 0 8 0 8 0x59).state = .busy ∧ exec .emitZero (busyAt 0 8 0 8 0x59) = .next t ∧ t.state = .fault ∧
      exec .endMessage (busyAt 0 8 0 8 0x59) = .next u ∧ u.state = .done ∧ BusyInv (busyAt 0 8 0 0 0x59) :=
  ⟨_, _, rfl, rfl, by decide, rfl, by decide, witness_busy_first.busy rfl⟩

theorem witness_NodeDescendsToItsTarget : (busyAt 0 7 0 1 0x59).state = .busy := by decide

/-- Bit 0 of a byte and the bit before it, at and before the end of the window. -/
theorem witness_TailAdvancesAndTestsExhaustion :
    (busyAt 1 1 0 4 0x00).state = .busy ∧ (busyAt 1 1 0 4 0x00).bitnum = 1 ∧ 2 ≤ (busyAt 1 2 0 4 0x00).bitnum.toNat ∧
      (tail (busyAt 1 1 0 4 0x00)).state = .done ∧ (tail (busyAt 0 1 0 4 0x00)).state = .busy ∧
      (tail (busyAt 1 2 0 4 0x00)).bitnum = 1 := by decide

theorem witness_FrameOfEndAndNode :
    ∃ t u, exec .endMessage (busyAt 1 7 2 4 0xC0) = .next t ∧ exec (.node 1) (busyAt 0 7 0 1 0x59) = .next u :=
  ⟨_, _, rfl, rfl⟩

theorem witness_FrameOfEmit :
    ∃ t u, (busyAt 0 8 0 7 0x59).state = .busy ∧ instrClass (.emitNear 0xBF) = some .emit ∧
      exec (.emitNear 0xBF) (busyAt 0 8 0 7 0x59) = .next t ∧ t.state = .busy ∧
      exec (.emitNear 0xBF) (busyAt 0 8 0 8 0x59) = .next u :=
  ⟨_, _, rfl, rfl, rfl, by decide, rfl⟩

theorem witness_FrameOfStart :
    ∃ t u v, exec (.start 0) (readyAt 0 2 0) = .next t ∧ exec (.start 0) (readyAt 0 3 0) = .next u ∧ u.state = .fault ∧
      (busyAt 0 8 0 0 0x59).state = .busy ∧ exec (.start 0) (busyAt 0 8 0 0 0x59) = .next v :=
  ⟨_, _, _, rfl, rfl, by decide, rfl, rfl⟩

/-- The last byte of the span, `BITNUM` at both ends, the host silent or idle. -/
theorem witness_StepRunsTheFetchedSlot :
    configRefusal (busyAt 1 1 1 4 0x01) = none ∧ (busyAt 1 1 1 4 0x01).state = .busy ∧
      (busyAt 1 1 1 4 0x01).inputs = [] ∧ (hostSays (busyAt 0 8 0 0 0x59) [.idle]).inputs = .idle :: [] ∧
      (busyAt 1 1 1 4 0x01).srcOff < (busyAt 1 1 1 4 0x01).srcSize ∧ 1 ≤ (busyAt 1 1 1 4 0x01).bitnum.toNat ∧
      (busyAt 0 8 0 0 0x59).bitnum.toNat ≤ 8 ∧
      decode (.slot (Memory.read Config.unlistedSlot tableT1
        (2 * (1#8).toNat + ((0x01#8).toNat >>> ((1#4).toNat - 1)) % 2))) = .ok (.node 2) := by decide

theorem witness_StepRunsTheStartCommand :
    configRefusal (hostSays idleT1 [.writeReg 0 0xFF]) = none ∧
      decode (.ctrl (BitVec.ofNat 8 0xFF)) = .ok (.start 0x7F) := by decide

theorem witness_WalkerWaitsOutsideBusy :
    configRefusal faulted = none ∧ faulted.state ≠ .busy ∧ faulted.inputs = [] ∧ configRefusal doneFour = none ∧
      doneFour.state ≠ .busy ∧ doneFour.inputs = [] := by decide

/-- A bit step that goes on and one that ends the call. -/
theorem witness_EveryStepKeepsTheInvariant :
    ∃ t u, Inv (busyAt 0 8 0 0 0x59) ∧ step (busyAt 0 8 0 0 0x59) = .next t ∧ Inv (busyAt 1 1 1 4 0x01) ∧
      step (busyAt 1 1 1 4 0x01) = .next u ∧ u.state = .done :=
  ⟨_, _, witness_busy_first, rfl, witness_busy_last, rfl, by decide⟩

theorem witness_NoStepChangesTheTable : ∃ t, step (busyAt 0 8 0 0 0x59) = .next t := ⟨_, rfl⟩

theorem witness_FaultHoldsUntilReset :
    ∃ t, faulted.state = .fault ∧ step (hostSays faulted [.readReg 1]) = .next t ∧
      ∀ rest, (hostSays faulted [.readReg 1]).inputs ≠ .reset :: rest :=
  ⟨_, rfl, rfl, fun _ h => by simp [hostSays] at h⟩

theorem witness_BusyWalkerAlwaysSteps : Inv (busyAt 1 1 1 4 0x01) ∧ (busyAt 1 1 1 4 0x01).state = .busy :=
  ⟨witness_busy_last, rfl⟩

/-- The step changes a byte and the call goes on, so that the clause about `DEST_POS` is met too. -/
theorem witness_BitStepStoresOnlyInsideTheDestination :
    ∃ t, Inv (busyAt 0 8 0 0 0x59) ∧ (busyAt 0 8 0 0 0x59).state = .busy ∧ walk (busyAt 0 8 0 0 0x59) = .next t ∧
      readDst t 0 ≠ readDst (busyAt 0 8 0 0 0x59) 0 ∧ t.state = .busy :=
  ⟨_, witness_busy_first, rfl, rfl, by decide, by decide⟩

theorem witness_BitStepConsumesOneBit :
    ∃ t, Inv (busyAt 0 8 0 0 0x59) ∧ walk (busyAt 0 8 0 0 0x59) = .next t ∧ t.state = .busy ∧ bitStepsTaken t = 1 :=
  ⟨_, witness_busy_first, rfl, by decide, by decide⟩

/-- A walker's step, a host's write and the host's reset. -/
theorem witness_BuffersAreStableDuringACall :
    ∃ t u v, (busyAt 0 8 0 0 0x59).state = .busy ∧ step (busyAt 0 8 0 0 0x59) = .next t ∧
      step (hostSays (busyAt 0 8 0 0 0x59) [.writeReg 2 7]) = .next u ∧ HostOp.writeReg 2 7 ≠ .idle ∧
      step (hostSays (busyAt 0 8 0 0 0x59) [.reset]) = .next v ∧ HostOp.reset ≠ .idle :=
  ⟨_, _, _, rfl, rfl, rfl, by decide, rfl, by decide⟩

/-- A `START` and a read during a call. -/
theorem witness_HostCannotAlterARunningCall :
    ∃ t u, (busyAt 0 8 0 0 0x59).state = .busy ∧ step (hostSays (busyAt 0 8 0 0 0x59) [.writeReg 0 1]) = .next t ∧
      HostOp.writeReg 0 1 ≠ .idle ∧ HostOp.writeReg 0 1 ≠ .reset ∧
      step (hostSays (busyAt 0 8 0 0 0x59) [.readReg 2]) = .next u ∧ HostOp.readReg 2 ≠ .idle ∧
      HostOp.readReg 2 ≠ .reset :=
  ⟨_, _, rfl, rfl, by decide, by decide, rfl, by decide, by decide⟩

/-- Two instances that share T1, one of them in a call. -/
theorem witness_InstancesAreIndependent :
    ∃ z, (System.mk [busyAt 0 8 0 0 0x59, doneFour]).stepAt 0 = .next z ∧
      (System.mk [busyAt 0 8 0 0 0x59, doneFour]).sharesTable :=
  ⟨_, rfl, fun a ha b hb => by
    simp only [List.mem_cons, List.not_mem_nil, or_false] at ha hb
    rcases ha with rfl | rfl <;> rcases hb with rfl | rfl <;> rfl⟩

/-- One ready state for each of the ends of a call: complete, incomplete, the empty window, and the two range faults. -/
theorem witness_CallAgreesWithDecompress :
    (Inv (readyAt 0 2 0) ∧ ReadyToStart (readyAt 0 2 0)) ∧ (Inv (readyAt 0 1 0) ∧ ReadyToStart (readyAt 0 1 0)) ∧
      (Inv (readyAt 2 0 8) ∧ ReadyToStart (readyAt 2 0 8)) ∧ (Inv (readyAt 0 3 0) ∧ ReadyToStart (readyAt 0 3 0)) ∧
      (Inv (readyAt 0 2 9) ∧ ReadyToStart (readyAt 0 2 9)) :=
  ⟨witness_ready _ _ _ (by decide) (by decide) (by decide), witness_ready _ _ _ (by decide) (by decide) (by decide),
    witness_ready _ _ _ (by decide) (by decide) (by decide), witness_ready _ _ _ (by decide) (by decide) (by decide),
    witness_ready _ _ _ (by decide) (by decide) (by decide)⟩

/-- Their results, the overflow among them, by `Decompress` (P1, V2, S3, S4, S6, and V4's kind with no room). -/
theorem witness_CallEndsInOneOfFiveWays :
    decompressOf (readyAt 0 2 0) = .done true 4 2 [(0, 0x41), (1, 0x42), (3, 0x41)] ∧
      decompressOf (readyAt 0 1 0) = .done false 4 1 [(0, 0x41), (1, 0x42), (3, 0x41)] ∧
      decompressOf (readyAt 2 0 8) = .done false 0 2 [] ∧ decompressOf (readyAt 0 3 0) = .fault .srcRange 0 [] ∧
      decompressOf (readyAt 0 2 9) = .fault .dstRange 0 [] ∧
      decompressOf (readyAt 0 2 7) = .fault .dstOverflow 0 [(7, 0x41)] := by decide

/-- As for CallAgreesWithDecompress: ready states that end complete, incomplete and in a fault. -/
theorem witness_CallWritesOnlyItsOutput :
    Inv (readyAt 0 2 7) ∧ ReadyToStart (readyAt 0 2 7) := witness_ready _ _ _ (by decide) (by decide) (by decide)

/-- Two terminals at the root and no way to the sentinel. -/
def tableNoEnd : List (Nat × SlotWord) := [(0, 0xFFBF), (1, 0xFFBE)]

theorem reachable_noEnd {n : NodeId} (h : Reachable tableNoEnd n) : n = 0 := by
  induction h with
  | root => rfl
  | @step n m b _ he ih =>
    subst ih
    exact absurd he.1 (by cases b <;> decide)

theorem witness_WithoutSentinelNoCallCompletes :
    Inv { readyAt 0 2 0 with rom := tableNoEnd } ∧ ReadyToStart { readyAt 0 2 0 with rom := tableNoEnd } ∧
      ¬ WfEnd tableNoEnd :=
  ⟨⟨by decide, ⟨by decide, by decide, by decide, by decide, by decide, by decide⟩,
      ⟨by decide, by decide, by decide, by decide, by decide, by decide⟩, ⟨by decide, by decide, by decide, by decide⟩,
      fun h => absurd h (by decide)⟩,
    ⟨by decide, .inl rfl, ⟨rfl, rfl, rfl⟩, 1, by decide, by decide, rfl⟩,
    fun ⟨n, b, hn, hv⟩ => by
      rw [reachable_noEnd hn] at hv
      exact absurd hv (by cases b <;> decide)⟩

theorem witness_EveryCallEndsWithItsBits :
    Inv (busyAt 1 1 1 4 0x01) ∧ (busyAt 1 1 1 4 0x01).state = .busy ∧ (busyAt 1 1 1 4 0x01).inputs = [] :=
  ⟨witness_busy_last, rfl, rfl⟩

/-- The bound met exactly. -/
theorem witness_RoomForEveryBitNeverOverflows :
    Inv (readyAt 1 1 0) ∧ ReadyToStart (readyAt 1 1 0) ∧ (readyAt 1 1 0).srcOff + (readyAt 1 1 0).srcLen ≤ 2 ∧
      (readyAt 1 1 0).dstOff + 8 * (readyAt 1 1 0).srcLen ≤ (readyAt 1 1 0).dstSize :=
  have h := witness_ready 1 1 0 (by decide) (by decide) (by decide)
  ⟨h.1, h.2, by decide, by decide⟩

/-- As `readyAt 0 1 0`, after another call, over another `DST` and with another byte after the window. -/
def otherPast : State :=
  { readyAt 0 1 0 with
    src := [(0, 0x59), (1, 0x77)], dst := [(0, 0x99)]
    state := .done, success := true, bytesWritten := 3 }

/-- Two calls of one byte that differ in the byte after the window, in `DST` before, and in what came before. -/
theorem witness_CallIsAPureFunctionOfItsInputs :
    ∃ s', Inv (readyAt 0 1 0) ∧ Inv s' ∧ ReadyToStart (readyAt 0 1 0) ∧ ReadyToStart s' ∧ s'.rom = tableT1 ∧
      s'.srcOff = 0 ∧ s'.srcLen = 1 ∧ s'.dstOff = 0 ∧ s'.srcSize = 2 ∧ s'.dstSize = 8 ∧
      (∀ a, 0 ≤ a → a < 0 + 1 → readSrc s' a = readSrc (readyAt 0 1 0) a) ∧
      readSrc s' 1 ≠ readSrc (readyAt 0 1 0) 1 ∧ readDst s' 0 ≠ readDst (readyAt 0 1 0) 0 := by
  obtain ⟨h1, h2⟩ := witness_ready 0 1 0 (by decide) (by decide) (by decide)
  refine ⟨otherPast, h1, ?_, h2, ⟨by decide, .inr rfl, ⟨rfl, rfl, rfl⟩, 1, by decide, by decide, rfl⟩, rfl, rfl, rfl, rfl, rfl, rfl, ?_, by decide,
    by decide⟩
  · exact ⟨by decide, ⟨by decide, by decide, by decide, by decide, by decide, by decide⟩,
      ⟨by decide, by decide, by decide, by decide, by decide, by decide⟩, ⟨by decide, by decide, by decide, by decide⟩,
      fun h => absurd h (by decide)⟩
  · intro a _ ha
    have : a = 0 := by omega
    subst this
    decide

/-- P1 and P1 shifted (the second run of P3). -/
theorem witness_CallIsPositionIndependent :
    Memory.wf Config.unlistedByte ([] : List Host.Cell) = true ∧
    (∀ j, j < 2 → Memory.read Config.unlistedByte [(0, 0xAA#8), (1, 0x59#8), (2, 0xC0#8), (3, 0x77#8)] (1 + j) =
      Memory.read Config.unlistedByte [(0, 0x59#8), (1, 0xC0#8)] (0 + j)) ∧
    decompress tableT1 [(0, 0x59), (1, 0xC0)] 2 0 2 [] 8 0 = .done true 4 2 [(0, 0x41), (1, 0x42), (3, 0x41)] ∧
    decompress tableT1 [(0, 0xAA), (1, 0x59), (2, 0xC0), (3, 0x77)] 4 1 2 [] 8 3 =
      .done true 4 3 [(3, 0x41), (4, 0x42), (6, 0x41)] := by decide

/-- P1 with one byte more (P3's first call) and one byte less (V2): the boundary lengths of both clauses. -/
theorem witness_WindowsLongerAndShorterThanTheMessage :
    decompress tableT1 [(0, 0x59), (1, 0xC0), (2, 0x07)] 3 0 2 [] 8 0 =
        .done true 4 (0 + 2) [(0, 0x41), (1, 0x42), (3, 0x41)] ∧
      decompress tableT1 [(0, 0x59), (1, 0xC0), (2, 0x07)] 3 0 3 [] 8 0 =
        .done true 4 (0 + 2) [(0, 0x41), (1, 0x42), (3, 0x41)] ∧
      decompress tableT1 [(0, 0x59), (1, 0xC0), (2, 0x07)] 3 0 1 [] 8 0 =
        .done false 4 (0 + 1) [(0, 0x41), (1, 0x42), (3, 0x41)] := by decide

/-- P1: the bytes 41 42 00 41, the sentinel 111, six bits of padding, room for exactly the message. -/
theorem witness_MessageDecodesToItsBytes :
    Memory.wf Config.unlistedByte ([] : List Host.Cell) = true ∧
    List.Forall₂ (IsByteCodeword tableT1) [[false], [true, false], [true, true, false], [false]]
      [0x41, 0x42, 0x00, 0x41] ∧
    IsEndCodeword tableT1 [true, true, true] ∧
    windowBits [(0, 0x59), (1, 0xC0)] 0 2 =
      messageBits [[false], [true, false], [true, true, false], [false]] [true, true, true] ++ List.replicate 6 false ∧
    (List.replicate 6 false).length < 8 ∧ 0 + [0x41, 0x42, 0x00, 0x41].length ≤ 4 := by
  refine ⟨by decide, ?_, by unfold IsEndCodeword; decide, by decide, by decide, by decide⟩
  exact .cons ⟨-65, by decide⟩ (.cons ⟨-66, by decide⟩ (.cons ⟨0, by decide⟩ (.cons ⟨-65, by decide⟩ .nil)))

end Sys2Proof.Tests
end

namespace Sys2Proof.Machine

/-! ## The host's moves and `START`

SUPPORT. One equation per move of the host and per case of `START`, so that no later proof unfolds the step. -/

/-- Where the host has a move left, a step of an admitted configuration is that move. -/
theorem step_of_input {s : State} {op : HostOp} {rest : List HostOp} (hc : configRefusal s = none)
    (hin : s.inputs = op :: rest) : step s = hostMove op { s with inputs := rest } := by
  rw [step_of_config hc]
  simp [nextMove, hin]

/-! ### `START` (R27, R28, R101) -/

theorem exec_start_ignored (r : BitVec 7) {s : State} (h : s.state = .busy ∨ s.state = .fault) :
    exec (.start r) s = .next s := by
  rcases h with h | h <;> simp [exec, execStart, h]

theorem exec_start_refused (r : BitVec 7) {s : State} {o : Operand} (h : s.state = .idle ∨ s.state = .done)
    (ho : operandWithoutValue s = some o) : exec (.start r) s = .refused (.startWithoutValue o) := by
  rcases h with h | h <;> simp [exec, execStart, h, ho]

theorem exec_start_accepted (r : BitVec 7) {s : State} (h : s.state = .idle ∨ s.state = .done)
    (ho : operandWithoutValue s = none) : exec (.start r) s = .next (beginCall s) := by
  rcases h with h | h <;> simp [exec, execStart, h, ho]

/-! ### Writes to `CTRL` (R21, R71) -/

theorem ofNat_getLsbD_zero (v : Nat) : (BitVec.ofNat 8 v).getLsbD 0 = decide (v % 2 = 1) := by
  simp only [BitVec.getLsbD_ofNat, Nat.testBit_zero, Nat.zero_lt_succ, decide_true, Bool.true_and]

theorem decodeCtrl_even {v : Nat} (hv : v % 2 = 0) : decodeCtrl (BitVec.ofNat 8 v) = .error .startBitClear :=
  if_neg (by simp only [ofNat_getLsbD_zero, hv]; decide)

theorem decodeCtrl_odd {v : Nat} (hv : v % 2 = 1) :
    decodeCtrl (BitVec.ofNat 8 v) = .ok (.start ((BitVec.ofNat 8 v).extractLsb' 1 7)) :=
  if_pos (by simp only [ofNat_getLsbD_zero, hv]; decide)

theorem hostMove_writeCtrl_even {v : Nat} (hv : v % 2 = 0) (s : State) :
    hostMove (.writeReg 0 v) s = .next s := by
  simp [hostMove, writeCtrl, decodeCtrl_even hv]

theorem hostMove_writeCtrl_odd {v : Nat} (hv : v % 2 = 1) (s : State) :
    hostMove (.writeReg 0 v) s = exec (.start ((BitVec.ofNat 8 v).extractLsb' 1 7)) s := by
  simp [hostMove, writeCtrl, decodeCtrl_odd hv]

/-! ### Writes to the other registers (R20, R27) -/

theorem hostMove_writeReg {n : Nat} (hn : n ≠ 0) (v : Nat) (s : State) :
    hostMove (.writeReg n v) s = .next (writeOperand n v s) := by
  simp [hostMove, hn]

theorem operandsWritable_iff {s : State} : operandsWritable s = true ↔ s.state = .idle ∨ s.state = .done := by
  cases h : s.state <;> simp [operandsWritable, h]

theorem writeOperand_of_busy_or_fault (n v : Nat) {s : State} (h : s.state = .busy ∨ s.state = .fault) :
    writeOperand n v s = s := by
  rcases h with h | h <;> simp [writeOperand, operandsWritable, h]

theorem writeOperand_srcOff (v : Nat) {s : State} (h : s.state = .idle ∨ s.state = .done) :
    writeOperand 2 v s = { s with srcOff := v % 2 ^ s.aw, srcOffHeld := true } := by
  simp [writeOperand, operandsWritable_iff.mpr h, registerValue]

theorem writeOperand_srcLen (v : Nat) {s : State} (h : s.state = .idle ∨ s.state = .done) :
    writeOperand 3 v s = { s with srcLen := v % 2 ^ s.aw, srcLenHeld := true } := by
  simp [writeOperand, operandsWritable_iff.mpr h, registerValue]

theorem writeOperand_dstOff (v : Nat) {s : State} (h : s.state = .idle ∨ s.state = .done) :
    writeOperand 4 v s = { s with dstOff := v % 2 ^ s.aw, dstOffHeld := true } := by
  simp [writeOperand, operandsWritable_iff.mpr h, registerValue]

/-- Only registers 2, 3 and 4 take a write. -/
theorem writeOperand_readOnly {n : Nat} (hn : n < 2 ∨ 5 ≤ n) (v : Nat) (s : State) : writeOperand n v s = s := by
  unfold writeOperand
  split
  · split
    · omega
    · omega
    · omega
    · rfl
  · rfl

/-! ### Reads (R20, R22, R26, R27, R28) -/

theorem hostMove_readReg_value {n v : Nat} {s : State} (h : readRegister n s = .value v) :
    hostMove (.readReg n) s = .next { s with readData := some v } := by
  simp [hostMove, h]

theorem hostMove_readReg_noValue {n : Nat} {r : Operand} {s : State} (h : readRegister n s = .noValue r) :
    hostMove (.readReg n) s = .refused (.readWithoutValue r) := by
  simp [hostMove, h]

/-- `CTRL` and the registers that do not exist read 0. -/
theorem readRegister_zero {n : Nat} (hn : n = 0 ∨ 6 ≤ n) (s : State) : readRegister n s = .value 0 := by
  rcases hn with rfl | hn
  · rfl
  · obtain ⟨m, rfl⟩ := Nat.exists_eq_add_of_le' hn
    rfl

theorem bytesWrittenRead_eq (s : State) : bytesWrittenRead s = if s.state = .busy then 0 else s.bytesWritten := by
  cases h : s.state <;> simp [bytesWrittenRead, h]

/-! ### The byte of `STATUS` (R22) -/

theorem statusByte_state (s : State) : (statusByte s).extractLsb' 0 2 = stateBits s.state := by
  unfold statusByte
  generalize faultBits (faultRead s) = f, successRead s = b, stateBits s.state = st
  revert f b st
  decide

theorem statusByte_success (s : State) : (statusByte s).getLsbD 2 = successRead s := by
  unfold statusByte
  generalize faultBits (faultRead s) = f, successRead s = b, stateBits s.state = st
  revert f b st
  decide

theorem statusByte_faultCode (s : State) : (statusByte s).extractLsb' 4 3 = faultBits (faultRead s) := by
  unfold statusByte
  generalize faultBits (faultRead s) = f, successRead s = b, stateBits s.state = st
  revert f b st
  decide

theorem statusByte_reserved (s : State) : (statusByte s).getLsbD 3 = false ∧ (statusByte s).getLsbD 7 = false := by
  unfold statusByte
  generalize faultBits (faultRead s) = f, successRead s = b, stateBits s.state = st
  revert f b st
  decide

theorem successRead_eq (s : State) : successRead s = (decide (s.state = .done) && s.success) := by
  cases h : s.state <;> simp [successRead, h]

theorem faultRead_eq (s : State) : faultRead s = if s.state = .fault then s.faultCode else .none := by
  cases h : s.state <;> simp [faultRead, h]

theorem faultBits_ne_zero_iff {c : FaultCode} : faultBits c ≠ 0 ↔ c ≠ .none := by
  cases c <;> decide

end Sys2Proof.Machine

namespace Sys2Proof

open Sys2Proof.Machine

/-! ## Reset and the registers -/

/-- Settles O14: both ways to reset are a state whose fields are written out. -/
theorem resetGivesTheSpecValues : Obligations.ResetGivesTheSpecValues := by
  refine ⟨?_, fun u => ⟨rfl, rfl, rfl⟩⟩
  rintro s (rfl | ⟨u, rfl⟩)
  · exact ⟨rfl, rfl, rfl, rfl, rfl, rfl, rfl, rfl⟩
  · exact ⟨rfl, rfl, rfl, rfl, rfl, rfl, rfl, rfl⟩

/-- Settles O16: the four parts of the byte, each read by `STATE`. -/
theorem statusRegisterLayout : Obligations.StatusRegisterLayout := by
  refine ⟨fun s => ⟨?_, ?_, (statusByte_reserved s).1, ?_, (statusByte_reserved s).2⟩, fun s hs => ?_⟩
  · rw [statusByte_state]
    cases s.state <;> rfl
  · rw [statusByte_success, successRead_eq]
  · rw [statusByte_faultCode, faultRead_eq]
    split
    · cases s.faultCode <;> rfl
    · rfl
  · have hread : faultRead s ≠ .none ↔ s.state = .fault := by
      rw [faultRead_eq]
      split
      · rename_i h
        exact hs.faultCode
      · rename_i h
        simp [h]
    rw [statusByte_faultCode, faultBits_ne_zero_iff, hread]

/-- An operand register answers its value where it holds one, and is refused where it holds none (R28). -/
theorem hostMove_readReg_operand {n v : Nat} {held : Bool} {r : Operand} {s : State}
    (h : readRegister n s = answerOperand held r v) :
    if held then Gives (hostMove (.readReg n) s) { s with readData := some v }
    else hostMove (.readReg n) s = .refused (.readWithoutValue r) := by
  cases held with
  | true => exact gives_of_eq (hostMove_readReg_value h)
  | false => exact hostMove_readReg_noValue h

/-- Settles O17, register by register. -/
theorem hostReadsByRegisterAndState : Obligations.HostReadsByRegisterAndState := by
  intro s n rest hc hin
  have hstep : step s = hostMove (.readReg n) { s with inputs := rest } := step_of_input hc hin
  refine ⟨fun hn => ?_, ?_, ?_, ?_, ?_, ?_⟩
  · exact gives_of_eq (hstep.trans (hostMove_readReg_value (readRegister_zero hn _)))
  · rintro rfl
    exact gives_of_eq (hstep.trans (hostMove_readReg_value rfl))
  · rintro rfl
    rw [hstep]
    exact hostMove_readReg_operand rfl
  · rintro rfl
    rw [hstep]
    exact hostMove_readReg_operand rfl
  · rintro rfl
    rw [hstep]
    exact hostMove_readReg_operand rfl
  · rintro rfl
    rw [← bytesWrittenRead_eq]
    exact gives_of_eq (hstep.trans (hostMove_readReg_value rfl))

/-- Settles O18, register by register. -/
theorem hostWritesTakeEffectInIdleAndDone : Obligations.HostWritesTakeEffectInIdleAndDone := by
  intro s n v rest hc hst hin
  have hstep (hn : n ≠ 0) : step s = .next (writeOperand n v { s with inputs := rest }) :=
    (step_of_input hc hin).trans (hostMove_writeReg hn v _)
  refine ⟨?_, ?_, ?_, fun hn => ?_⟩
  · rintro rfl
    exact gives_of_eq ((hstep (by decide)).trans (congrArg _ (writeOperand_srcOff v hst)))
  · rintro rfl
    exact gives_of_eq ((hstep (by decide)).trans (congrArg _ (writeOperand_srcLen v hst)))
  · rintro rfl
    exact gives_of_eq ((hstep (by decide)).trans (congrArg _ (writeOperand_dstOff v hst)))
  · exact gives_of_eq ((hstep (by omega)).trans (by rw [writeOperand_readOnly (by omega)]))

/-- What the host writes in `BUSY` and `FAULT` is ignored, `START` included (R27). -/
theorem hostMove_writeReg_ignored (n v : Nat) {s : State} (h : s.state = .busy ∨ s.state = .fault) :
    hostMove (.writeReg n v) s = .next s := by
  by_cases hn : n = 0
  · subst hn
    rcases Nat.mod_two_eq_zero_or_one v with hv | hv
    · exact hostMove_writeCtrl_even hv s
    · rw [hostMove_writeCtrl_odd hv, exec_start_ignored _ h]
  · rw [hostMove_writeReg hn, writeOperand_of_busy_or_fault n v h]

/-- Settles O19. -/
theorem hostWritesIgnoredInBusyAndFault : Obligations.HostWritesIgnoredInBusyAndFault := by
  intro s n v rest hc hst hin
  exact gives_of_eq ((step_of_input hc hin).trans (hostMove_writeReg_ignored n v hst))

/-- Settles O20: an even value decodes to no command. -/
theorem ctrlWriteWithoutStartHasNoEffect : Obligations.CtrlWriteWithoutStartHasNoEffect := by
  intro s v rest hc hin hv
  exact gives_of_eq ((step_of_input hc hin).trans (hostMove_writeCtrl_even hv _))

/-- Settles O25: each case fixes the first operand that holds no value. -/
theorem startWithoutOperandsIsRefused : Obligations.StartWithoutOperandsIsRefused := by
  intro r s hst
  refine ⟨fun hs => ?_, fun hs hl => ?_, fun hs hl hd => ?_⟩
  · exact exec_start_refused r hst (by simp [operandWithoutValue, hs])
  · exact exec_start_refused r hst (by simp [operandWithoutValue, hs, hl])
  · exact exec_start_refused r hst (by simp [operandWithoutValue, hs, hl, hd])

end Sys2Proof

namespace Sys2Proof.Machine

/-! ## What a step leaves alone

SUPPORT. The parameters, which no step changes, and everything a bit step can do. -/

/-- The two states have one table and the same parameters (R4, R31). -/
structure SameConfig (s t : State) : Prop where
  rom : t.rom = s.rom
  aw : t.aw = s.aw
  srcSize : t.srcSize = s.srcSize
  dstSize : t.dstSize = s.dstSize

theorem SameConfig.refl (s : State) : SameConfig s s := ⟨rfl, rfl, rfl, rfl⟩

theorem SameConfig.configRefusal_eq {s t : State} (h : SameConfig s t) : configRefusal t = configRefusal s :=
  configRefusal_congr h.aw h.srcSize h.dstSize h.rom

theorem sameConfig_emitByte (b : Byte) (s : State) : SameConfig s (emitByte b s) := by
  rcases emitByte_cases b s with ⟨_, h⟩ | ⟨_, h⟩ <;> rw [h] <;> constructor <;> simp

theorem sameConfig_beginCall (s : State) : SameConfig s (beginCall s) := by
  rcases beginCall_cases s with ⟨_, h⟩ | ⟨_, _, h⟩ | ⟨_, _, _, h⟩ | ⟨_, _, _, h⟩ <;> rw [h] <;> constructor <;> simp

theorem sameConfig_exec {i : Instr} {s t : State} (h : exec i s = .next t) : SameConfig s t := by
  rcases exec_next_cases h with ⟨_, rfl⟩ | ⟨b, _, rfl⟩ | ⟨n, _, rfl⟩ | ⟨_, _, _, rfl⟩ | ⟨_, _, _, _, rfl⟩
  · exact ⟨rfl, rfl, rfl, rfl⟩
  · exact sameConfig_emitByte b s
  · constructor <;> simp
  · exact .refl _
  · exact sameConfig_beginCall s

theorem sameConfig_walk {s t : State} (h : walk s = .next t) : SameConfig s t := by
  rcases walk_next_cases h with ⟨_, rfl⟩ | ⟨_, _, _, h⟩
  · exact .refl _
  · exact sameConfig_exec h

theorem sameConfig_writeOperand (n v : Nat) (s : State) : SameConfig s (writeOperand n v s) := by
  unfold writeOperand
  split
  · split <;> exact ⟨rfl, rfl, rfl, rfl⟩
  · exact .refl _

theorem sameConfig_hostMove {op : HostOp} {s t : State} (h : hostMove op s = .next t) : SameConfig s t := by
  rcases hostMove_next_cases h with ⟨v, rfl, rfl | ⟨r, _, h⟩⟩ | ⟨n, v, rfl, _, rfl⟩ | ⟨n, v, rfl, _, rfl⟩ |
    ⟨i, b, rfl, _, _, rfl⟩ | ⟨i, b, rfl, _, _, rfl⟩ | ⟨rfl, rfl⟩ | ⟨rfl, h⟩
  · exact .refl _
  · exact sameConfig_exec h
  · exact sameConfig_writeOperand n v s
  · exact ⟨rfl, rfl, rfl, rfl⟩
  · exact ⟨rfl, rfl, rfl, rfl⟩
  · exact ⟨rfl, rfl, rfl, rfl⟩
  · exact ⟨rfl, rfl, rfl, rfl⟩
  · exact sameConfig_walk h

theorem sameConfig_step {s t : State} (h : step s = .next t) : SameConfig s t := by
  rcases step_next_cases h with ⟨_, h⟩ | ⟨op, rest, _, h⟩
  · exact sameConfig_walk h
  · obtain ⟨hrom, haw, hsrc, hdst⟩ := sameConfig_hostMove h
    exact ⟨hrom, haw, hsrc, hdst⟩

/-! ### The bit step -/

/-- A slot word is never the host's command (R67). -/
theorem decodeSlot_ne_start (w : SlotWord) (r : BitVec 7) : decodeSlot w ≠ .start r := by
  unfold decodeSlot
  split_ifs <;> exact Instr.noConfusion

/-- The state an action hands to the tail: `NODE'`, and `DEST_POS'` and the bytes of `DST` where a byte was stored. -/
def acted (n : NodeId) (p : Nat) (d : List Host.Cell) (s : State) : State :=
  { s with node := n, destPos := p, dst := d }

section ActedFields

variable (n : NodeId) (p : Nat) (d : List Host.Cell) (s : State)

@[simp] theorem acted_aw : (acted n p d s).aw = s.aw := rfl
@[simp] theorem acted_srcSize : (acted n p d s).srcSize = s.srcSize := rfl
@[simp] theorem acted_dstSize : (acted n p d s).dstSize = s.dstSize := rfl
@[simp] theorem acted_rom : (acted n p d s).rom = s.rom := rfl
@[simp] theorem acted_src : (acted n p d s).src = s.src := rfl
@[simp] theorem acted_bitnum : (acted n p d s).bitnum = s.bitnum := rfl
@[simp] theorem acted_srcOff : (acted n p d s).srcOff = s.srcOff := rfl
@[simp] theorem acted_endPos : (acted n p d s).endPos = s.endPos := rfl
@[simp] theorem acted_srcLen : (acted n p d s).srcLen = s.srcLen := rfl
@[simp] theorem acted_dstOff : (acted n p d s).dstOff = s.dstOff := rfl
@[simp] theorem acted_bytesWritten : (acted n p d s).bytesWritten = s.bytesWritten := rfl
@[simp] theorem acted_state : (acted n p d s).state = s.state := rfl
@[simp] theorem acted_success : (acted n p d s).success = s.success := rfl
@[simp] theorem acted_faultCode : (acted n p d s).faultCode = s.faultCode := rfl
@[simp] theorem acted_srcOffHeld : (acted n p d s).srcOffHeld = s.srcOffHeld := rfl
@[simp] theorem acted_srcLenHeld : (acted n p d s).srcLenHeld = s.srcLenHeld := rfl
@[simp] theorem acted_dstOffHeld : (acted n p d s).dstOffHeld = s.dstOffHeld := rfl
@[simp] theorem acted_readData : (acted n p d s).readData = s.readData := rfl
@[simp] theorem acted_inputs : (acted n p d s).inputs = s.inputs := rfl
@[simp] theorem acted_node : (acted n p d s).node = n := rfl
@[simp] theorem acted_destPos : (acted n p d s).destPos = p := rfl
@[simp] theorem acted_dst : (acted n p d s).dst = d := rfl

end ActedFields

/-- Everything a bit step can answer: `END` finishes, an `EMIT` without room faults, and an `EMIT` with room and a `NODE`
run the tail (R105, R106, R107). -/
theorem bitStep_next_cases {s t : State} (hb : s.state = .busy) (h : walk s = .next t) :
    (t = finish true (s.destPos - s.dstOff) { s with srcOff := s.srcOff + 1 }) ∨
      (s.dstSize ≤ s.destPos ∧ t = raiseFault .dstOverflow s) ∨
      (s.destPos < s.dstSize ∧ ∃ b,
        t = tail (acted 0 (s.destPos + 1) (Memory.write Config.unlistedByte s.dst s.destPos b) s)) ∨
      ∃ n, t = tail (acted n s.destPos s.dst s) := by
  rcases walk_next_cases h with ⟨hb', _⟩ | ⟨_, _, _, h⟩
  · exact absurd hb hb'
  rcases exec_next_cases h with ⟨_, rfl⟩ | ⟨b, _, rfl⟩ | ⟨n, _, rfl⟩ | ⟨r, hr, _⟩ | ⟨r, hr, _⟩
  · exact .inl rfl
  · rcases emitByte_cases b s with ⟨hfull, hemit⟩ | ⟨hroom, hemit⟩
    · exact .inr (.inl ⟨hfull, hemit⟩)
    · exact .inr (.inr (.inl ⟨hroom, b, hemit⟩))
  · exact .inr (.inr (.inr ⟨n, rfl⟩))
  · exact absurd hr (decodeSlot_ne_start _ r)
  · exact absurd hr (decodeSlot_ne_start _ r)

/-- The tail's own way to end a call counts the bytes from `DST_OFF` (R104, R158). -/
theorem tail_done_bytesWritten {s : State} (hb : s.state = .busy) (hd : (tail s).state = .done) :
    (tail s).bytesWritten = (tail s).destPos - (tail s).dstOff := by
  rcases tail_cases s with ⟨_, h⟩ | ⟨_, h⟩
  · rw [tail_destPos, tail_dstOff, h, finish_bytesWritten]
  · rw [h, advanceBit_state, hb] at hd
    cases hd

/-- What every bit step leaves alone, and what it does to `DST` and `BYTES_WRITTEN` (R31, R33, R158). -/
structure BitStepEffect (s t : State) : Prop where
  config : SameConfig s t
  src : t.src = s.src
  srcLen : t.srcLen = s.srcLen
  dstOff : t.dstOff = s.dstOff
  inputs : t.inputs = s.inputs
  /-- The only byte that may be new is the one at `DEST_POS`, inside the span; `DEST_POS` then moves past it. -/
  stored : ∀ a, readDst t a ≠ readDst s a → a = s.destPos ∧ s.destPos < s.dstSize ∧ t.destPos = s.destPos + 1
  destPos : s.destPos ≤ t.destPos
  done : t.state = .done → t.bytesWritten = t.destPos - t.dstOff

/-- The effect of a bit step whose action stores nothing. -/
theorem bitStepEffect_of_dst_eq {s t : State} (config : SameConfig s t) (hsrc : t.src = s.src) (hlen : t.srcLen = s.srcLen)
    (hoff : t.dstOff = s.dstOff) (hin : t.inputs = s.inputs) (hdst : t.dst = s.dst) (hpos : t.destPos = s.destPos)
    (hdone : t.state = .done → t.bytesWritten = t.destPos - t.dstOff) : BitStepEffect s t :=
  ⟨config, hsrc, hlen, hoff, hin, fun a ha => absurd (by simp [readDst, hdst]) ha, hpos.ge, hdone⟩

/-- A bit step stores the byte of an `EMIT` with room, or nothing. -/
theorem bitStepEffect_walk {s t : State} (hb : s.state = .busy) (h : walk s = .next t) : BitStepEffect s t := by
  have hconfig : SameConfig s t := sameConfig_walk h
  rcases bitStep_next_cases hb h with rfl | ⟨_, rfl⟩ | ⟨hroom, b, rfl⟩ | ⟨n, rfl⟩
  · exact bitStepEffect_of_dst_eq hconfig rfl rfl rfl rfl rfl rfl fun _ => rfl
  · exact bitStepEffect_of_dst_eq hconfig rfl rfl rfl rfl rfl rfl (by simp)
  · refine ⟨hconfig, by simp, by simp, by simp, by simp, fun a ha => ⟨?_, hroom, by simp⟩, by simp,
      tail_done_bytesWritten hb⟩
    by_contra hne
    exact ha (by simp [readDst, read_write_other b hne])
  · exact bitStepEffect_of_dst_eq hconfig (by simp) (by simp) (by simp) (by simp) (by simp) (by simp)
      (tail_done_bytesWritten hb)

end Sys2Proof.Machine

namespace Sys2Proof

open Sys2Proof.Machine

/-- Settles O40: the walker's move and each of the host's keep the parameters. -/
theorem noStepChangesTheTable : Obligations.NoStepChangesTheTable := by
  intro s t h
  obtain ⟨hrom, haw, hsrc, hdst⟩ := sameConfig_step h
  exact ⟨hrom, haw, hsrc, hdst⟩

/-- Settles O43: the byte a bit step stores is at `DEST_POS`, which the invariant puts at `DST_OFF` or above. -/
theorem bitStepStoresOnlyInsideTheDestination : Obligations.BitStepStoresOnlyInsideTheDestination := by
  intro s t hinv hb h
  have heff : BitStepEffect s t := bitStepEffect_walk hb h
  refine ⟨heff.src, fun a ha => ?_⟩
  obtain ⟨rfl, hroom, hpos⟩ := heff.stored a ha
  exact ⟨rfl, (hinv.busy hb).destLow, hroom, fun _ => hpos⟩

/-- Settles O46: in `BUSY` the host's writes are ignored, its stores are refused, and a read changes its answer only. -/
theorem hostCannotAlterARunningCall : Obligations.HostCannotAlterARunningCall := by
  intro s t op rest hb hin hidle hreset h
  have hmove : hostMove op { s with inputs := rest } = .next t := by
    rw [← step_of_input (step_next h).1 hin, h]
  have hignored (n v : Nat) : hostMove (.writeReg n v) { s with inputs := rest } = .next { s with inputs := rest } :=
    hostMove_writeReg_ignored n v (.inl hb)
  have hnotOwner : ¬ (s.state = .idle ∨ s.state = .done) := by simp [hb]
  rcases hostMove_next_cases hmove with ⟨v, rfl, _⟩ | ⟨n, v, rfl, _⟩ | ⟨n, v, _, _, rfl⟩ | ⟨_, _, _, _, howner, _⟩ |
    ⟨_, _, _, _, howner, _⟩ | ⟨rfl, _⟩ | ⟨rfl, _⟩
  · cases (hignored 0 v).symm.trans hmove
    rfl
  · cases (hignored n v).symm.trans hmove
    rfl
  · rfl
  · exact absurd howner hnotOwner
  · exact absurd howner hnotOwner
  · exact absurd rfl hreset
  · exact absurd rfl hidle

end Sys2Proof

namespace Sys2Proof

open Sys2Proof.Machine

/-! ## A call from its `START` to its end

SUPPORT. The invariant of a running call kept by every bit step, the bits it has left, and the one induction over the
bit steps of a call. -/

/-! ### The advance of the bit position (R104) -/

theorem le_advanceBit_srcOff (s : State) : s.srcOff ≤ (advanceBit s).srcOff := by
  rcases advanceBit_cases s with ⟨_, h⟩ | ⟨_, h⟩ <;> simp [h]

theorem advanceBit_srcOff_le (s : State) : (advanceBit s).srcOff ≤ s.srcOff + 1 := by
  rcases advanceBit_cases s with ⟨_, h⟩ | ⟨_, h⟩ <;> simp [h]

theorem advanceBit_bitnum_range {s : State} (hpos : 1 ≤ s.bitnum.toNat) (hle : s.bitnum.toNat ≤ 8) :
    1 ≤ (advanceBit s).bitnum.toNat ∧ (advanceBit s).bitnum.toNat ≤ 8 := by
  rcases advanceBit_cases s with ⟨_, h⟩ | ⟨hne, h⟩
  · simp [h]
  · have hne' : s.bitnum.toNat ≠ 1 := fun h1 => hne (BitVec.eq_of_toNat_eq h1)
    rw [h, bitnum_pred_toNat hpos]
    omega

@[simp] theorem callStart_advanceBit (s : State) : callStart (advanceBit s) = callStart s := by
  simp [callStart]

/-- The tail's advance is one bit (R136 item 5). -/
theorem bitStepsTaken_advanceBit {s : State} (hpos : 1 ≤ s.bitnum.toNat) (hle : s.bitnum.toNat ≤ 8)
    (hstart : callStart s ≤ s.srcOff) : bitStepsTaken (advanceBit s) = bitStepsTaken s + 1 := by
  unfold bitStepsTaken
  rw [callStart_advanceBit]
  rcases advanceBit_cases s with ⟨h1, h⟩ | ⟨hne, h⟩
  · simp only [h, h1, BitVec.ofNat_eq_ofNat, BitVec.reduceToNat]
    omega
  · have hne' : s.bitnum.toNat ≠ 1 := fun h1 => hne (BitVec.eq_of_toNat_eq h1)
    simp only [h, bitnum_pred_toNat hpos]
    omega

/-- A bit step that goes on keeps the invariant of the call, whether its action stored a byte or not (R136). -/
theorem busyInv_advanceBit {s : State} (hs : BusyInv s) (n : NodeId) {p : Nat} (d : List Host.Cell)
    (hlow : s.destPos ≤ p) (hnext : p ≤ s.destPos + 1) (hroom : p ≤ s.dstSize)
    (hgo : (advanceBit (acted n p d s)).srcOff ≠ s.endPos) : BusyInv (advanceBit (acted n p d s)) := by
  have hge : s.srcOff ≤ (advanceBit (acted n p d s)).srcOff := le_advanceBit_srcOff (acted n p d s)
  have hle : (advanceBit (acted n p d s)).srcOff ≤ s.srcOff + 1 := advanceBit_srcOff_le (acted n p d s)
  have hbit := advanceBit_bitnum_range (s := acted n p d s) hs.bitnumPos hs.bitnumLe
  have htaken : bitStepsTaken (advanceBit (acted n p d s)) = bitStepsTaken s + 1 :=
    bitStepsTaken_advanceBit (s := acted n p d s) hs.bitnumPos hs.bitnumLe hs.startLe
  have hstart : callStart (advanceBit (acted n p d s)) = callStart s := by simp [callStart]
  have hguard := hs.guard
  have hcount := hs.destCount
  exact
    { window := by simpa using hs.window
      startLe := hstart ▸ hs.startLe.trans hge
      guard := by rw [advanceBit_endPos, acted_endPos]; omega
      inSpan := by simpa using hs.inSpan
      bitnumPos := hbit.1
      bitnumLe := hbit.2
      destLow := by simpa using hs.destLow.trans hlow
      destHigh := by simpa using hroom
      destCount := by rw [htaken, advanceBit_destPos, advanceBit_dstOff, acted_destPos, acted_dstOff]; omega
      noBytes := by simpa using hs.noBytes
      held := by simpa using hs.held }

/-! ### The bits left -/

/-- The bits of the window that the running call has not consumed (R137). -/
def bitsLeft (s : State) : Nat :=
  8 * s.srcLen - bitStepsTaken s

/-- Inside the loop a bit is left (R103, R136). -/
theorem bitStepsTaken_lt {s : State} (hs : BusyInv s) : bitStepsTaken s < 8 * s.srcLen := by
  obtain ⟨hwindow, hstart, hguard, _, hpos, _⟩ := hs
  unfold bitStepsTaken callStart at *
  omega

/-! ### The walker's step in a running call -/

/-- A slot value within `WF_range` is no `RSVD`: with bit 15 clear it is the word's number, whose high byte is then 0
(R66, R86). -/
theorem decodeSlot_ne_rsvd {w : SlotWord} (hw : slotValue w ≤ 255) (k : BitVec 15) : decodeSlot w ≠ .rsvd k := by
  have hhigh (hneg : ¬ w.getLsbD 15 = true) : slotHigh w = 0x00 := by
    have hvalue : slotValue w = w.toNat :=
      BitVec.toInt_eq_toNat_of_msb (by rw [BitVec.msb_eq_getLsbD_last]; exact Bool.eq_false_iff.mpr hneg)
    apply BitVec.eq_of_toNat_eq
    rw [slotHigh, BitVec.extractLsb'_toNat, Nat.shiftRight_eq_div_pow]
    change w.toNat / 2 ^ 8 % 2 ^ 8 = 0
    omega
  unfold decodeSlot
  split_ifs with h1 h2 h3 h4 h5
  case neg => exact absurd (hhigh h4) h5
  all_goals exact Instr.noConfusion

theorem exec_slot_answers {w : SlotWord} (hw : slotValue w ≤ 255) (s : State) : ∃ t, exec (decodeSlot w) s = .next t := by
  cases hi : decodeSlot w with
  | rsvd k => exact absurd hi (decodeSlot_ne_rsvd hw k)
  | start r => exact absurd hi (decodeSlot_ne_start w r)
  | _ => exact ⟨_, rfl⟩

/-- No table within `WF_range` and no source byte stops the walker of a running call (R45, R102). -/
theorem walk_answers {s : State} (hc : configRefusal s = none) (hb : s.state = .busy) (hs : BusyInv s) :
    ∃ t, walk s = .next t := by
  have hsrc : s.srcOff < s.srcSize := hs.guard.trans_le hs.inSpan
  have hbit : bitnumLegal s.bitnum = true := by simp [bitnumLegal, hs.bitnumPos, hs.bitnumLe]
  have hrange := wfRange_of_romInRange (configRefusal_none_iff.mp hc).1 s.node (sourceBit s)
  simp only [walk_busy hb, bitStep, fetchSlot, if_pos hsrc, if_pos hbit]
  exact exec_slot_answers hrange.2 s

/-- A call that runs with the host silent. -/
structure Running (s : State) : Prop where
  config : configRefusal s = none
  silent : s.inputs = []
  busy : s.state = .busy
  inv : BusyInv s

theorem Running.step_eq {s : State} (hs : Running s) : step s = walk s :=
  step_silent hs.config hs.silent

/-- The tail ends the call or consumes one bit of it. -/
theorem running_tail {s : State} (hs : Running s) (n : NodeId) {p : Nat} (d : List Host.Cell)
    (hlow : s.destPos ≤ p) (hnext : p ≤ s.destPos + 1) (hroom : p ≤ s.dstSize) :
    Ended (tail (acted n p d s)) ∨
      BusyInv (tail (acted n p d s)) ∧ (tail (acted n p d s)).state = .busy ∧
        bitStepsTaken (tail (acted n p d s)) = bitStepsTaken s + 1 := by
  rcases tail_cases (acted n p d s) with ⟨_, h⟩ | ⟨hgo, h⟩
  · exact .inl (.inl (by simp [h]))
  · rw [h]
    exact .inr ⟨busyInv_advanceBit hs.inv n d hlow hnext hroom hgo, by simp [hs.busy],
      bitStepsTaken_advanceBit (s := acted n p d s) hs.inv.bitnumPos hs.inv.bitnumLe hs.inv.startLe⟩

/-- A bit step of a running call ends it, or the call runs on with one bit less. -/
theorem running_walk {s t : State} (hs : Running s) (h : walk s = .next t) :
    Ended t ∨ Running t ∧ bitsLeft t + 1 = bitsLeft s := by
  have heff : BitStepEffect s t := bitStepEffect_walk hs.busy h
  have hgoes : Ended t ∨ BusyInv t ∧ t.state = .busy ∧ bitStepsTaken t = bitStepsTaken s + 1 := by
    rcases bitStep_next_cases hs.busy h with rfl | ⟨_, rfl⟩ | ⟨hroom, b, rfl⟩ | ⟨n, rfl⟩
    · exact .inl (.inl rfl)
    · exact .inl (.inr rfl)
    · exact running_tail hs 0 _ (by omega) le_rfl hroom
    · exact running_tail hs n _ le_rfl (by omega) hs.inv.destHigh
  refine hgoes.imp_right fun ⟨hinv, hb, htaken⟩ => ⟨⟨?_, ?_, hb, hinv⟩, ?_⟩
  · rw [heff.config.configRefusal_eq, hs.config]
  · rw [heff.inputs, hs.silent]
  · have hleft := bitStepsTaken_lt hs.inv
    rw [bitsLeft, bitsLeft, heff.srcLen, htaken]
    omega

/-! ### Runs to the end of a call -/

/-- `k` steps lead from `s` to `t`, the first state of the run in which the call has ended (R175). -/
structure EndsAfter (s : State) (k : Nat) (t : State) : Prop where
  run : runFor k s = .next t
  ended : Ended t
  first : ∀ j u, j < k → runFor j s = .next u → u.state = .busy

theorem EndsAfter.zero {s : State} (h : Ended s) : EndsAfter s 0 s :=
  ⟨rfl, h, fun _ _ hj => absurd hj (Nat.not_lt_zero _)⟩

theorem EndsAfter.succ {s u t : State} {k : Nat} (hb : s.state = .busy) (hstep : step s = .next u)
    (h : EndsAfter u k t) : EndsAfter s (k + 1) t := by
  refine ⟨(runFor_succ k hstep).trans h.run, h.ended, fun j v hj hv => ?_⟩
  cases j with
  | zero => cases hv; exact hb
  | succ j =>
    rw [runFor_succ j hstep] at hv
    exact h.first j v (by omega) hv

/-- A running call ends within the bits it has left, and what every bit step of a running call keeps holds at its end
(R137): the induction over the bit steps of a call. -/
theorem running_ends {P : State → Prop} (keep : ∀ u v, Running u → P u → walk u = .next v → P v) (n : Nat) {s : State}
    (hs : Running s) (hn : bitsLeft s ≤ n) (hP : P s) : ∃ k t, k ≤ n ∧ EndsAfter s k t ∧ P t := by
  induction n generalizing s with
  | zero =>
    have hleft := bitStepsTaken_lt hs.inv
    rw [bitsLeft] at hn
    omega
  | succ n ih =>
    obtain ⟨u, hu⟩ := walk_answers hs.config hs.busy hs.inv
    have hstep : step s = .next u := hs.step_eq.trans hu
    have hPu : P u := keep s u hs hP hu
    rcases running_walk hs hu with hend | ⟨hrun, hleft⟩
    · exact ⟨1, u, by omega, .succ hs.busy hstep (.zero hend), hPu⟩
    · obtain ⟨k, t, hk, hends, hPt⟩ := ih hrun (by omega) hPu
      exact ⟨k + 1, t, by omega, .succ hs.busy hstep hends, hPt⟩

/-! ### From the host's `START` -/

/-- The step of a ready state is the `START` step, with the host silent after it (R101, R173). -/
theorem ready_step {s : State} (hr : ReadyToStart s) : step s = .next (beginCall { s with inputs := [] }) := by
  obtain ⟨hc, hst, hheld, v, _, hodd, hin⟩ := hr
  rw [step_of_input hc hin, hostMove_writeCtrl_odd hodd]
  exact exec_start_accepted _ hst (operandWithoutValue_none_iff.mpr hheld)

/-- The invariant of a call holds when it begins (R101, R136). -/
theorem busyInv_begin {s : State} (hheld : s.srcOffHeld = true ∧ s.srcLenHeld = true ∧ s.dstOffHeld = true)
    (hsrc : s.srcOff + s.srcLen ≤ s.srcSize) (hdst : s.dstOff ≤ s.dstSize) (hlen : 0 < s.srcLen) :
    BusyInv (enterBusy (openCursor (clearResults s))) where
  window := by simp
  startLe := by simp [callStart]
  guard := Nat.lt_add_of_pos_right hlen
  inSpan := hsrc
  bitnumPos := by simp
  bitnumLe := by simp
  destLow := le_rfl
  destHigh := hdst
  destCount := by simp
  noBytes := rfl
  held := hheld

/-- The `START` step ends the call at once, or the call runs with every bit of its window left. -/
theorem ready_beginCall {s : State} (hr : ReadyToStart s) :
    Ended (beginCall { s with inputs := [] }) ∨
      Running (beginCall { s with inputs := [] }) ∧ bitsLeft (beginCall { s with inputs := [] }) = 8 * s.srcLen := by
  rcases beginCall_cases { s with inputs := [] } with ⟨_, h⟩ | ⟨_, _, h⟩ | ⟨_, _, _, h⟩ | ⟨hsrc, hdst, hlen, h⟩
  · exact .inl (.inr (by rw [h]; rfl))
  · exact .inl (.inr (by rw [h]; rfl))
  · exact .inl (.inl (by rw [h]; rfl))
  · have hc : configRefusal (beginCall { s with inputs := [] }) = none :=
      (sameConfig_beginCall { s with inputs := [] }).configRefusal_eq.trans hr.config
    rw [h] at hc ⊢
    exact .inr ⟨⟨hc, rfl, rfl, busyInv_begin hr.held hsrc hdst hlen⟩, by simp [bitsLeft, bitStepsTaken, callStart]⟩

/-- A call from a ready state ends, and what the `START` step leaves true and every bit step keeps holds at its end. -/
theorem call_ends_with {s : State} (hr : ReadyToStart s) {P : State → Prop}
    (start : P (beginCall { s with inputs := [] })) (keep : ∀ u v, Running u → P u → walk u = .next v → P v) :
    ∃ k t, CallEndsAt s k t ∧ P t := by
  have hends : ∃ k t, k ≤ 8 * s.srcLen ∧ EndsAfter (beginCall { s with inputs := [] }) k t ∧ P t := by
    rcases ready_beginCall hr with hend | ⟨hrun, hleft⟩
    · exact ⟨0, _, Nat.zero_le _, .zero hend, start⟩
    · exact running_ends keep _ hrun hleft.le start
  obtain ⟨k, t, hk, hend, hP⟩ := hends
  refine ⟨k + 1, t, ⟨by omega, by omega, (runFor_succ k (ready_step hr)).trans hend.run, hend.ended, ?_⟩, hP⟩
  intro j u hj hlt hu
  obtain ⟨i, rfl⟩ := Nat.exists_eq_add_of_le' hj
  rw [runFor_succ i (ready_step hr)] at hu
  exact hend.first i u (by omega) hu

/-! ## What a call writes -/

/-- `t` is a state of the call that `s` starts, and all it has written is output: the bytes of `DST` that are new lie in
`[DST_OFF, DST_SIZE)`, below `DEST_POS` while the call runs and below `DST_OFF + BYTES_WRITTEN` after a decode outcome. -/
structure OutputOnly (s t : State) : Prop where
  src : t.src = s.src
  rom : t.rom = s.rom
  dstSize : t.dstSize = s.dstSize
  dstOff : t.dstOff = s.dstOff
  output : ∀ a, readDst t a ≠ readDst s a →
    s.dstOff ≤ a ∧ a < s.dstSize ∧ (t.state = .busy → a < t.destPos) ∧ (t.state = .done → a < s.dstOff + t.bytesWritten)

/-- The `START` step writes no byte (R101). -/
theorem outputOnly_beginCall (s : State) (rest : List HostOp) : OutputOnly s (beginCall { s with inputs := rest }) := by
  have hconfig := sameConfig_beginCall { s with inputs := rest }
  have hframe : (beginCall { s with inputs := rest }).src = s.src ∧ (beginCall { s with inputs := rest }).dst = s.dst ∧
      (beginCall { s with inputs := rest }).dstOff = s.dstOff := by
    rcases beginCall_cases { s with inputs := rest } with ⟨_, h⟩ | ⟨_, _, h⟩ | ⟨_, _, _, h⟩ | ⟨_, _, _, h⟩ <;> simp [h]
  obtain ⟨hsrc, hdst, hoff⟩ := hframe
  exact ⟨hsrc, hconfig.rom, hconfig.dstSize, hoff, fun a ha => absurd (by simp [readDst, hdst]) ha⟩

/-- Every bit step writes output only (R33). -/
theorem outputOnly_walk {s u v : State} (hu : Running u) (hP : OutputOnly s u) (h : walk u = .next v) :
    OutputOnly s v := by
  have heff : BitStepEffect u v := bitStepEffect_walk hu.busy h
  have hlow := hu.inv.destLow
  have hpos := heff.destPos
  have hoff : u.dstOff = s.dstOff := hP.dstOff
  have hoff' : v.dstOff = u.dstOff := heff.dstOff
  have hsize : u.dstSize = s.dstSize := hP.dstSize
  refine ⟨heff.src.trans hP.src, heff.config.rom.trans hP.rom, heff.config.dstSize.trans hsize, hoff'.trans hoff,
    fun a ha => ?_⟩
  have hnew : s.dstOff ≤ a ∧ a < s.dstSize ∧ a < v.destPos := by
    by_cases hstep : readDst v a = readDst u a
    · obtain ⟨hge, hlt, hbelow, _⟩ := hP.output a (hstep ▸ ha)
      exact ⟨hge, hlt, (hbelow hu.busy).trans_le hpos⟩
    · obtain ⟨rfl, hroom, hnext⟩ := heff.stored a hstep
      omega
  obtain ⟨hge, hlt, hbelow⟩ := hnew
  refine ⟨hge, hlt, fun _ => hbelow, fun hd => ?_⟩
  rw [heff.done hd]
  omega

/-- Settles O52: `OutputOnly` holds after the `START` step and every bit step keeps it. -/
theorem callWritesOnlyItsOutput : Obligations.CallWritesOnlyItsOutput := by
  intro s _ hr
  obtain ⟨k, t, hends, hout⟩ := call_ends_with hr (outputOnly_beginCall s []) fun _ _ => outputOnly_walk
  refine ⟨k, t, hends, hout.src, hout.rom, fun a ha => ?_, fun hd a ha => ?_⟩
  · by_contra hne
    obtain ⟨hge, hlt, _, _⟩ := hout.output a hne
    omega
  · by_contra hne
    obtain ⟨_, _, _, hbelow⟩ := hout.output a hne
    have := hbelow hd
    omega

end Sys2Proof

namespace Sys2Proof

open Sys2Proof.Machine

/-! ## A running call is never stuck -/

/-- Settles O42: the source window is part of the invariant of a running call, and `walk_answers` gives the step. -/
theorem busyWalkerAlwaysSteps : Obligations.BusyWalkerAlwaysSteps := by
  intro s hs hb
  have hinv : BusyInv s := hs.busy hb
  exact ⟨⟨hinv.startLe, hinv.guard, hinv.inSpan⟩, walk_answers hs.config hb hinv⟩

end Sys2Proof

namespace Sys2Proof.Machine

/-! ## Slot words and their values (R61, R62, R67)

SUPPORT. The decoder tests bits, the rules of 30_encoding.md speak of slot values; `decodeSlot_by_value` says once what the
decoder does in terms of the value, and the statements about the slot rows go through it. -/

theorem slotValue_of_lt {w : SlotWord} (h : w.toNat < 0x8000) : slotValue w = w.toNat :=
  BitVec.toInt_eq_toNat_of_lt (by omega)

theorem slotValue_of_ge {w : SlotWord} (h : 0x8000 ≤ w.toNat) : slotValue w = (w.toNat : Int) - 65536 := by
  unfold slotValue
  rw [BitVec.toInt_eq_toNat_cond, if_neg (by omega)]
  rfl

/-- The two halves of the two's-complement reading, for a case split. -/
theorem slotValue_cases (w : SlotWord) :
    (w.toNat < 0x8000 ∧ slotValue w = w.toNat) ∨
      (0x8000 ≤ w.toNat ∧ w.toNat < 0x10000 ∧ slotValue w = (w.toNat : Int) - 65536) := by
  rcases Nat.lt_or_ge w.toNat 0x8000 with h | h
  · exact .inl ⟨h, slotValue_of_lt h⟩
  · exact .inr ⟨h, w.isLt, slotValue_of_ge h⟩

/-! ### The bit fields of a word -/

theorem slotHigh_toNat (w : SlotWord) : (slotHigh w).toNat = w.toNat / 256 := by
  simp only [slotHigh, BitVec.extractLsb'_toNat, Nat.shiftRight_eq_div_pow]
  omega

theorem slotLow_toNat (w : SlotWord) : (slotLow w).toNat = w.toNat % 256 := by
  simp [slotLow, BitVec.extractLsb'_toNat]

theorem slotRest_toNat (w : SlotWord) : (slotRest w).toNat = w.toNat % 0x8000 := by
  simp [slotRest, BitVec.extractLsb'_toNat]

/-- The low byte is the value modulo 256, whatever the sign. -/
theorem slotLow_value (w : SlotWord) : ((slotLow w).toNat : Int) = slotValue w % 256 := by
  have := slotLow_toNat w
  rcases slotValue_cases w with ⟨_, hv⟩ | ⟨_, _, hv⟩ <;> omega

/-- Bits 14:0 are the value modulo `2^15`, whatever the sign. -/
theorem slotRest_value (w : SlotWord) : ((slotRest w).toNat : Int) = slotValue w % 0x8000 := by
  have := slotRest_toNat w
  rcases slotValue_cases w with ⟨_, hv⟩ | ⟨_, _, hv⟩ <;> omega

/-! ### The decoder by value -/

theorem slotHigh_eq_ones_iff {w : SlotWord} : slotHigh w = 0xFF ↔ -256 ≤ slotValue w ∧ slotValue w < 0 := by
  have hcases := slotValue_cases w
  rw [← BitVec.toNat_inj, slotHigh_toNat]
  change w.toNat / 256 = 255 ↔ _
  omega

theorem slotHigh_eq_zeros_iff {w : SlotWord} : slotHigh w = 0x00 ↔ 0 ≤ slotValue w ∧ slotValue w ≤ 255 := by
  have hcases := slotValue_cases w
  rw [← BitVec.toNat_inj, slotHigh_toNat]
  change w.toNat / 256 = 0 ↔ _
  omega

/-- Bit 15 is the sign (R61). -/
theorem slotSign_iff {w : SlotWord} : w.getLsbD 15 = true ↔ slotValue w < 0 := by
  have hcases := slotValue_cases w
  rw [show w.getLsbD 15 = decide (0x8000 ≤ w.toNat) from BitVec.msb_eq_decide w, decide_eq_true_iff]
  omega

/-- The six slot rows, told apart by the slot value instead of the bits. -/
theorem decodeSlot_by_value (w : SlotWord) :
    decodeSlot w =
      if slotValue w = -256 then .endMessage
      else if slotValue w = 0 then .emitZero
      else if -256 ≤ slotValue w ∧ slotValue w < 0 then .emitNear (slotLow w)
      else if slotValue w < 0 then .emitWide (slotRest w)
      else if 0 ≤ slotValue w ∧ slotValue w ≤ 255 then .node (slotLow w)
      else .rsvd (slotRest w) := by
  have hend : w = 0xFF00 ↔ slotValue w = -256 := BitVec.toInt_inj.symm
  have hzero : w = 0x0000 ↔ slotValue w = 0 := BitVec.toInt_inj.symm
  simp only [decodeSlot, hend, hzero, slotHigh_eq_ones_iff, slotSign_iff, slotHigh_eq_zeros_iff]

theorem decodeSlot_near {w : SlotWord} (hlow : -256 < slotValue w) (hneg : slotValue w < 0) :
    decodeSlot w = .emitNear (slotLow w) := by
  rw [decodeSlot_by_value, if_neg (by omega), if_neg (by omega), if_pos ⟨hlow.le, hneg⟩]

theorem decodeSlot_wide {w : SlotWord} (h : slotValue w < -256) : decodeSlot w = .emitWide (slotRest w) := by
  rw [decodeSlot_by_value, if_neg (by omega), if_neg (by omega), if_neg (by omega), if_pos (by omega)]

theorem decodeSlot_node {w : SlotWord} (hpos : 1 ≤ slotValue w) (hle : slotValue w ≤ 255) :
    decodeSlot w = .node (slotLow w) := by
  rw [decodeSlot_by_value, if_neg (by omega), if_neg (by omega), if_neg (by omega), if_neg (by omega),
    if_pos (by omega)]

theorem decodeSlot_rsvd {w : SlotWord} (h : 256 ≤ slotValue w) : decodeSlot w = .rsvd (slotRest w) := by
  rw [decodeSlot_by_value, if_neg (by omega), if_neg (by omega), if_neg (by omega), if_neg (by omega),
    if_neg (by omega)]

/-- The class of the decoded instruction is the class of the value (R62). -/
theorem instrClass_decodeSlot (w : SlotWord) : instrClass (decodeSlot w) = some (classOf (slotValue w)) := by
  rw [decodeSlot_by_value]
  split_ifs
  · exact congrArg some (classOf_end_iff.mpr (by omega)).symm
  · exact congrArg some (classOf_emit_iff.mpr (by omega)).symm
  · exact congrArg some (classOf_emit_iff.mpr (by omega)).symm
  · exact congrArg some (classOf_emit_iff.mpr (by omega)).symm
  · exact congrArg some (classOf_node_iff.mpr (by omega)).symm
  · exact congrArg some (classOf_rsvd_iff.mpr (by omega)).symm

/-! ### The encoder's words -/

theorem slotValue_emitNear_word (k : BitVec 8) : slotValue (0xFF#8 ++ k) = (k.toNat : Int) - 256 := by
  rw [slotValue, BitVec.toInt_append, Int.sub_eq_add_neg, Int.add_comm]
  rfl

theorem slotValue_emitWide_word (k : BitVec 15) : slotValue (1#1 ++ k) = (k.toNat : Int) - 32768 := by
  rw [slotValue, BitVec.toInt_append, Int.sub_eq_add_neg, Int.add_comm]
  rfl

theorem slotValue_node_word (n : NodeId) : slotValue (0x00#8 ++ n) = n.toNat :=
  BitVec.toInt_append.trans (Int.zero_add _)

theorem slotValue_rsvd_word (k : BitVec 15) : slotValue (0#1 ++ k) = k.toNat :=
  BitVec.toInt_append.trans (Int.zero_add _)

theorem slotLow_append (c k : BitVec 8) : slotLow (c ++ k) = k :=
  BitVec.extractLsb'_append_eq_ite.trans BitVec.extractLsb'_eq_self

theorem slotRest_append (c : BitVec 1) (k : BitVec 15) : slotRest (c ++ k) = k :=
  BitVec.extractLsb'_append_eq_ite.trans BitVec.extractLsb'_eq_self

/-! ### The constraint of a row, as a bound on its operand (R67) -/

theorem wellFormed_emitNear_iff {k : BitVec 8} : (Instr.emitNear k).wellFormed = true ↔ 0 < k.toNat := by
  rw [Instr.wellFormed, bne_iff_ne, ne_eq, ← BitVec.toNat_inj, Nat.pos_iff_ne_zero]
  rfl

theorem wellFormed_node_iff {n : NodeId} : (Instr.node n).wellFormed = true ↔ 0 < n.toNat :=
  wellFormed_emitNear_iff (k := n)

theorem wellFormed_emitWide_iff {k : BitVec 15} : (Instr.emitWide k).wellFormed = true ↔ k.toNat < 0x7F00 := by
  rw [Instr.wellFormed, bne_iff_ne, ne_eq, ← BitVec.toNat_inj, BitVec.extractLsb'_toNat, Nat.shiftRight_eq_div_pow]
  change ¬ k.toNat / 256 % 128 = 127 ↔ _
  omega

theorem wellFormed_rsvd_iff {k : BitVec 15} : (Instr.rsvd k).wellFormed = true ↔ 256 ≤ k.toNat := by
  rw [Instr.wellFormed, bne_iff_ne, ne_eq, ← BitVec.toNat_inj, BitVec.extractLsb'_toNat, Nat.shiftRight_eq_div_pow]
  change ¬ k.toNat / 256 % 128 = 0 ↔ _
  omega

/-! ### Decoder and encoder -/

/-- What the decoder gives obeys its row's constraint. -/
theorem wellFormed_decodeSlot (w : SlotWord) : (decodeSlot w).wellFormed = true := by
  have hlow := slotLow_value w
  have hrest := slotRest_value w
  have hrange := slotValue_range w
  rw [decodeSlot_by_value]
  split_ifs
  · rfl
  · rfl
  · exact wellFormed_emitNear_iff.mpr (by omega)
  · exact wellFormed_emitWide_iff.mpr (by omega)
  · exact wellFormed_node_iff.mpr (by omega)
  · exact wellFormed_rsvd_iff.mpr (by omega)

/-- A word is known by its value. -/
theorem slot_eq_of_slotValue_eq {w w' : SlotWord} (h : slotValue w = slotValue w') : Code.slot w = .slot w' :=
  congrArg Code.slot (BitVec.toInt_inj.mp h)

/-- Encoding what a word decodes to gives the word back. -/
theorem encode_decodeSlot (w : SlotWord) : encode (decodeSlot w) = .slot w := by
  have hlow := slotLow_value w
  have hrest := slotRest_value w
  have hrange := slotValue_range w
  rw [decodeSlot_by_value]
  split_ifs with hend hzero
  · exact slot_eq_of_slotValue_eq hend.symm
  · exact slot_eq_of_slotValue_eq hzero.symm
  · exact slot_eq_of_slotValue_eq ((slotValue_emitNear_word _).trans (by omega))
  · exact slot_eq_of_slotValue_eq ((slotValue_emitWide_word _).trans (by omega))
  · exact slot_eq_of_slotValue_eq ((slotValue_node_word _).trans (by omega))
  · exact slot_eq_of_slotValue_eq ((slotValue_rsvd_word _).trans (by omega))

/-- A word that encodes a well-formed instruction decodes to that instruction: the constraint of its row puts the value
into the row's range. -/
theorem decodeSlot_of_encode {i : Instr} {w : SlotWord} (hi : i.wellFormed = true) (h : encode i = .slot w) :
    decodeSlot w = i := by
  cases i with
  | endMessage => cases h; decide
  | emitZero => cases h; decide
  | emitNear k =>
    obtain rfl : 0xFF#8 ++ k = w := Code.slot.inj h
    have hk := wellFormed_emitNear_iff.mp hi
    have hv := slotValue_emitNear_word k
    rw [decodeSlot_near (by omega) (by omega), slotLow_append]
  | emitWide k =>
    obtain rfl : 1#1 ++ k = w := Code.slot.inj h
    have hk := wellFormed_emitWide_iff.mp hi
    have hv := slotValue_emitWide_word k
    rw [decodeSlot_wide (by omega), slotRest_append]
  | node n =>
    obtain rfl : 0x00#8 ++ n = w := Code.slot.inj h
    have hn := wellFormed_node_iff.mp hi
    have hv := slotValue_node_word n
    rw [decodeSlot_node (by omega) (by omega), slotLow_append]
  | rsvd k =>
    obtain rfl : 0#1 ++ k = w := Code.slot.inj h
    have hk := wellFormed_rsvd_iff.mp hi
    have hv := slotValue_rsvd_word k
    rw [decodeSlot_rsvd (by omega), slotRest_append]
  | start r => cases h

/-! ### The emitted byte (R64) -/

theorem emittedByte_toNat (v : Int) : ((emittedByte v).toNat : Int) = (-v) % 256 := by
  simp only [emittedByte, BitVec.toNat_ofInt]
  omega

/-- Values that agree modulo 256 emit one byte. -/
theorem emittedByte_eq_iff {v v' : Int} : emittedByte v = emittedByte v' ↔ v % 256 = v' % 256 := by
  have hv := emittedByte_toNat v
  have hv' := emittedByte_toNat v'
  rw [← BitVec.toNat_inj]
  omega

/-- Every terminal but the sentinel emits the byte of its value, in whichever of the three rows it stands. -/
theorem byteOfInstr_decodeSlot {w : SlotWord} (hle : slotValue w ≤ 0) (hne : slotValue w ≠ -256) :
    byteOfInstr (decodeSlot w) = some (emittedByte (slotValue w)) := by
  have hlow := slotLow_value w
  have hrest := slotRest_value w
  rw [decodeSlot_by_value, if_neg hne]
  split_ifs with hzero
  · rw [hzero]
    rfl
  · exact congrArg some (emittedByte_eq_iff.mpr (by omega))
  · exact congrArg some (emittedByte_eq_iff.mpr (by omega))
  all_goals omega

/-- An instruction that emits a byte runs the one `EMIT` action for it (R106). -/
theorem exec_of_byteOfInstr {i : Instr} {b : Byte} (h : byteOfInstr i = some b) (s : State) :
    exec i s = .next (emitByte b s) := by
  cases i <;> cases h <;> rfl

/-! ### A configuration that is refused (R66, R86) -/

theorem step_of_refusal {s : State} {r : Refusal} (h : configRefusal s = some r) : step s = .refused r := by
  simp [step, h]

/-- A table that fails `WF_range` is refused at every step (log 11). -/
theorem step_of_not_wfRange {s : State} (h : ¬ WfRange s.rom) : step s = .refused .tableFailsWfRange :=
  step_of_refusal (if_neg fun hr => h (wfRange_of_romInRange hr))

/-! ### Walks down the table (R72) -/

theorem leafOf_cons_node {rom : List (Nat × SlotWord)} {n : NodeId} {b : Bool} (rest : List Bool)
    (h : classOf (tableNext rom n b) = .node) :
    leafOf rom n (b :: rest) = leafOf rom (targetNode (tableNext rom n b)) rest :=
  if_pos h

/-- A walk that meets a leaf ends there, with no bit left. -/
theorem leafOf_cons_leaf {rom : List (Nat × SlotWord)} {n : NodeId} {b : Bool} {rest : List Bool} {v : Int}
    (h : classOf (tableNext rom n b) ≠ .node) :
    leafOf rom n (b :: rest) = some v ↔ rest = [] ∧ tableNext rom n b = v := by
  rw [leafOf, if_neg h, Option.ite_none_right_eq_some, Option.some_inj]

/-- From any node, a walk that ends at a leaf cannot be continued to another one (R73). -/
theorem leafOf_append {rom : List (Nat × SlotWord)} {bits more : List Bool} {v v' : Int} {n : NodeId}
    (h : leafOf rom n bits = some v) (h' : leafOf rom n (bits ++ more) = some v') : more = [] ∧ v' = v := by
  induction bits generalizing n with
  | nil => cases h
  | cons b rest ih =>
    rw [List.cons_append] at h'
    by_cases hc : classOf (tableNext rom n b) = .node
    · rw [leafOf_cons_node _ hc] at h h'
      exact ih h h'
    · obtain ⟨rfl, rfl⟩ := (leafOf_cons_leaf hc).mp h
      obtain ⟨hmore, rfl⟩ := (leafOf_cons_leaf hc).mp h'
      exact ⟨hmore, rfl⟩

/-! ### Slot addresses (R60) -/

/-- The bit is the lowest bit of the address and the node is the rest. -/
theorem slotAddress_eq_bit (n : NodeId) (b : Bool) : slotAddress n b = Nat.bit b n.toNat :=
  (Nat.bit_val b n.toNat).symm

theorem slotAddress_inj {n m : NodeId} {b c : Bool} (h : slotAddress n b = slotAddress m c) : n = m ∧ b = c := by
  rw [slotAddress_eq_bit, slotAddress_eq_bit] at h
  have hnode : n.toNat = m.toNat := by simpa only [Nat.bit_shiftRight_one] using congrArg (· >>> 1) h
  have hbit : b = c := by simpa only [Nat.testBit_bit_zero] using congrArg (Nat.testBit · 0) h
  exact ⟨BitVec.eq_of_toNat_eq hnode, hbit⟩

theorem exists_slotAddress_eq {a : Nat} (h : a < 512) : ∃ (n : NodeId) (b : Bool), slotAddress n b = a := by
  refine ⟨BitVec.ofNat 8 (a >>> 1), a.testBit 0, ?_⟩
  rw [slotAddress_eq_bit, BitVec.toNat_ofNat, Nat.mod_eq_of_lt (by omega), Nat.bit_testBit_zero_shiftRight_one]

end Sys2Proof.Machine

namespace Sys2Proof

open Sys2Proof.Machine

/-! ## The encodings -/

/-- Settles O3: the decoder and the encoder are inverse to each other on well-formed instructions. -/
theorem rowsPartitionTheSlotWords : Obligations.RowsPartitionTheSlotWords := fun w =>
  ⟨wellFormed_decodeSlot w, encode_decodeSlot w, fun _ hi h => (decodeSlot_of_encode hi h).symm⟩

/-- Settles O5: the decoded instruction has the class of the value, and the classes are ranges of values. -/
theorem everySlotWordHasItsClass : Obligations.EverySlotWordHasItsClass := by
  intro w
  rw [instrClass_decodeSlot]
  simp only [Option.some_inj]
  exact ⟨classOf_end_iff, classOf_emit_iff.trans and_comm, classOf_node_iff, classOf_rsvd_iff⟩

/-- Settles O6: all three rows emit `emittedByte` of the value, which is injective on 256 consecutive values. -/
theorem terminalEmitsItsNegatedValue : Obligations.TerminalEmitsItsNegatedValue := by
  refine ⟨fun w hle hne => ?_, by decide, fun b => ?_⟩
  · have hbyte := byteOfInstr_decodeSlot hle hne
    exact ⟨_, hbyte, emittedByte_toNat _, fun s _ => gives_of_eq (exec_of_byteOfInstr hbyte s)⟩
  · have hval := emittedByte_toNat (-b.toNat)
    have hb : emittedByte (-b.toNat) = b := BitVec.eq_of_toNat_eq (by omega)
    refine ⟨-b.toNat, ⟨by omega, by omega, hb⟩, fun v' hlow hhigh h' => ?_⟩
    have := emittedByte_eq_iff.mp (h'.trans hb.symm)
    omega

/-- Settles O7: the target is the value modulo 256, and a word of class `NODE` has a value from 1. -/
theorem internalNodeNamesItsTarget : Obligations.InternalNodeNamesItsTarget := by
  refine ⟨fun w hpos hle => ⟨slotLow w, decodeSlot_node hpos hle, ?_⟩, fun w h => ?_⟩
  · have := slotLow_value w
    omega
  · have hwf := wellFormed_decodeSlot w
    rw [h] at hwf
    exact absurd hwf (by decide)

/-- Settles O11, by induction on the shorter codeword, from any node. -/
theorem codewordsArePrefixFree : Obligations.CodewordsArePrefixFree :=
  fun _ _ _ _ _ => leafOf_append

/-- Settles O4. -/
theorem slotWordReadsTwosComplement : Obligations.SlotWordReadsTwosComplement :=
  fun _ => ⟨fun h => slotValue_of_lt (by omega), slotValue_of_ge⟩

/-- Settles O8: an address is `Nat.bit` of its node and bit. -/
theorem slotAddressesAreTheFirst512 : Obligations.SlotAddressesAreTheFirst512 :=
  ⟨fun n b => Nat.le_of_lt_succ (slotAddress_lt n b), fun _ _ _ _ => slotAddress_inj,
    fun _ ha => exists_slotAddress_eq (Nat.lt_succ_of_le ha)⟩

/-- Settles O30: the decoder gives `RSVD` from 256 on, and one such slot makes the table fail `WF_range`. -/
theorem reservedSlotHasNoStep : Obligations.ReservedSlotHasNoStep := by
  refine ⟨fun w => ⟨fun h => ⟨_, decodeSlot_rsvd h⟩, fun ⟨k, hk⟩ => ?_⟩, fun _ _ => rfl, fun s n b h => ?_⟩
  · by_contra hlt
    exact decodeSlot_ne_rsvd (by omega) k hk
  · exact step_of_not_wfRange fun hwf => absurd (hwf n b).2 (by omega)

/-- Settles O36: only an odd value decodes to a command, and its host move is `exec` of that `START`. -/
theorem stepRunsTheStartCommand : Obligations.StepRunsTheStartCommand := by
  intro s v rest i hc hin hi
  rw [step_of_input hc hin]
  rcases Nat.mod_two_eq_zero_or_one v with hv | hv
  · exact absurd ((decodeCtrl_even hv).symm.trans hi) (by simp)
  · obtain rfl := Except.ok.inj ((decodeCtrl_odd hv).symm.trans hi)
    exact ⟨hostMove_writeCtrl_odd hv _, _, rfl⟩

end Sys2Proof

namespace Sys2Proof.Machine

/-! ## The decode table

SUPPORT. What a leaf of a walk can be, how a walk and its slots tie to the graph of R85, and what a step can be refused
for where the table is within `WF_range`. -/

/-! ### Walks of a tree (R85, R88) -/

/-- A slot that is no node ends a walk: within `WF_range` it is a terminal or the sentinel. -/
theorem leaf_class_of_wfRange {rom : List (Nat × SlotWord)} (hr : WfRange rom) {n : NodeId} {b : Bool}
    (h : classOf (tableNext rom n b) ≠ .node) :
    classOf (tableNext rom n b) = .emit ∨ classOf (tableNext rom n b) = .endMessage := by
  have hle := (hr n b).2
  cases hc : classOf (tableNext rom n b) with
  | endMessage => exact .inr rfl
  | emit => exact .inl rfl
  | node => exact absurd hc h
  | rsvd =>
    have := classOf_rsvd_iff.mp hc
    omega

/-- A walk goes on along an edge. -/
theorem leafOf_cons_edge {rom : List (Nat × SlotWord)} {n m : NodeId} {b : Bool} (rest : List Bool)
    (h : NodeEdge rom n b m) : leafOf rom n (b :: rest) = leafOf rom m rest :=
  (leafOf_cons_node rest h.1).trans (congrArg (leafOf rom · rest) h.2)

/-- A slot that holds the number of a node other than the root is an edge to it (R65). -/
theorem nodeEdge_of_tableNext {rom : List (Nat × SlotWord)} {n m : NodeId} {b : Bool}
    (h : tableNext rom n b = m.toNat) (hm : 0 < m.toNat) : NodeEdge rom n b m := by
  refine ⟨classOf_node_iff.mpr (by omega), ?_⟩
  rw [h, targetNode, BitVec.ofInt_natCast, BitVec.ofNat_toNat, BitVec.setWidth_eq]

theorem NodePath.snoc {rom : List (Nat × SlotWord)} {n m k : NodeId} {b : Bool} (h : NodePath rom n m)
    (he : NodeEdge rom m b k) : NodePath rom n k := by
  induction h with
  | edge he' => exact .cons he' (.edge he)
  | cons he' _ ih => exact .cons he' (ih he)

/-- A set of nodes that misses one has fewer than the 256 there are. -/
theorem card_lt_of_notMem {seen : Finset NodeId} {n : NodeId} (h : n ∉ seen) : seen.card < 256 := by
  have hcard : Fintype.card NodeId = 256 := by rw [← FinEnum.card_eq_fintypeCard]; rfl
  exact hcard ▸ Finset.card_lt_univ_of_notMem h

/-- A walk in a tree from a reachable node, `seen` the nodes already passed on the way to it, ends at a leaf before the
256 nodes are used up: without a cycle each bit passes a node not seen before. -/
theorem leafOf_of_wfTree {rom : List (Nat × SlotWord)} (ht : WfTree rom) {bits : List Bool} {n : NodeId}
    {seen : Finset NodeId} (hn : Reachable rom n) (hseen : ∀ m ∈ seen, NodePath rom m n)
    (hlen : 256 ≤ bits.length + seen.card) :
    ∃ k v, k + seen.card ≤ 256 ∧ leafOf rom n (bits.take k) = some v ∧
      (classOf v = .emit ∨ classOf v = .endMessage) := by
  have hnew : n ∉ seen := fun h => ht.acyclic hn (hseen n h)
  have hcard : seen.card < 256 := card_lt_of_notMem hnew
  induction bits generalizing n seen with
  | nil =>
    rw [List.length_nil] at hlen
    omega
  | cons b rest ih =>
    by_cases hc : classOf (tableNext rom n b) = .node
    · have he : NodeEdge rom n b (targetNode (tableNext rom n b)) := ⟨hc, rfl⟩
      have hcard' : (insert n seen).card = seen.card + 1 := Finset.card_insert_of_notMem hnew
      have hseen' : ∀ m ∈ insert n seen, NodePath rom m (targetNode (tableNext rom n b)) := by
        intro m hm
        rcases Finset.mem_insert.mp hm with rfl | hm
        · exact .edge he
        · exact (hseen m hm).snoc he
      have hnew' : targetNode (tableNext rom n b) ∉ insert n seen := fun h =>
        ht.acyclic (hn.step he) (hseen' _ h)
      obtain ⟨k, v, hk, hleaf, hclass⟩ := ih (hn.step he) hseen'
        (by rw [List.length_cons] at hlen; omega) hnew' (card_lt_of_notMem hnew')
      exact ⟨k + 1, v, by omega, by rwa [List.take_succ_cons, leafOf_cons_edge _ he], hclass⟩
    · exact ⟨1, _, by omega, (leafOf_cons_leaf hc).mpr ⟨rfl, rfl⟩, leaf_class_of_wfRange ht.inRange hc⟩

/-! ### The decoded slot and the graph of R85 -/

theorem slotValue_of_decodeSlot_end {w : SlotWord} (h : decodeSlot w = .endMessage) :
    slotValue w = Config.sentinelEnd := by
  have hclass := instrClass_decodeSlot w
  rw [h] at hclass
  exact classOf_end_iff.mp (Option.some.inj hclass).symm

/-- A slot that decodes to `NODE` is an edge to the node the instruction names (R65). -/
theorem nodeEdge_of_decodeSlot {rom : List (Nat × SlotWord)} {n m : NodeId} {b : Bool}
    (h : decodeSlot (romWord rom n b) = .node m) : NodeEdge rom n b m := by
  have hclass : classOf (tableNext rom n b) = .node := by
    have hclass := instrClass_decodeSlot (romWord rom n b)
    rw [h] at hclass
    exact (Option.some.inj hclass).symm
  obtain ⟨hpos, hle⟩ := classOf_node_iff.mp hclass
  obtain rfl : slotLow (romWord rom n b) = m := Instr.node.inj ((decodeSlot_node hpos hle).symm.trans h)
  have hlow : ((slotLow (romWord rom n b)).toNat : Int) = tableNext rom n b % 256 := slotLow_value _
  exact nodeEdge_of_tableNext (by omega) (by omega)

/-! ### What a step can be refused for (R66, R86) -/

/-- On a canonical ROM the check of the listed slots is `WF_range`: every listed slot is the slot of some node and bit. -/
theorem romInRange_of_wfRange {rom : List (Nat × SlotWord)} (hwf : Memory.wf Config.unlistedSlot rom = true)
    (hbelow : Memory.below 512 rom = true) (hr : WfRange rom) : romInRange rom = true := by
  refine romInRange_iff.mpr fun e he => ?_
  obtain ⟨n, b, ha⟩ := exists_slotAddress_eq (below_iff.mp hbelow e he)
  have hword : romWord rom n b = e.2 := by rw [romWord, ha, read_of_mem hwf he]
  exact hword ▸ (hr n b).2

/-- Within `WF_range` the walker's move is never refused. -/
theorem walk_ne_refused {s : State} (hr : WfRange s.rom) (r : Refusal) : walk s ≠ .refused r := by
  intro h
  by_cases hb : s.state = .busy
  · obtain ⟨t, ht⟩ := exec_slot_answers (hr s.node (sourceBit s)).2 s
    rw [walk_busy hb, bitStep, fetchSlot] at h
    split_ifs at h
    cases ht.symm.trans h
  · cases (walk_waits hb).symm.trans h

/-- A refused `START` is refused for an operand. -/
theorem exec_start_refused_cases {b : BitVec 7} {s : State} {r : Refusal} (h : exec (.start b) s = .refused r) :
    ∃ o, r = .startWithoutValue o := by
  by_cases hst : s.state = .idle ∨ s.state = .done
  · cases ho : operandWithoutValue s with
    | none => cases (exec_start_accepted b hst ho).symm.trans h
    | some o => exact ⟨o, Host.Outcome.refused.inj ((exec_start_refused b hst ho).symm.trans h).symm⟩
  · have hst' : s.state = .busy ∨ s.state = .fault := by
      cases hs : s.state <;> simp_all
    cases (exec_start_ignored b hst').symm.trans h

/-- A store is never refused for the table: its refusal names `BUSY` or `FAULT` (R163). -/
theorem storeRefusal_ne_tableFails (i : Nat) (s : State) : storeRefusal i s ≠ some .tableFailsWfRange := by
  cases hs : s.state <;> simp [storeRefusal, hs]

/-- A refused store of the host is refused as `storeRefusal` has it. -/
theorem storeRefusal_of_refused {i : Nat} {b : Byte} {s : State} {r : Refusal}
    (h : hostStoreSrc i b s = .refused r ∨ hostStoreDst i b s = .refused r) : storeRefusal i s = some r := by
  rcases h with h | h
  all_goals
    simp only [hostStoreSrc, hostStoreDst] at h
    split at h
    · split at h
      · cases h; assumption
      · cases h
    · cases h

/-- No move of the host is refused for a table within `WF_range`: each refusal of its own names an operand or a store. -/
theorem hostMove_ne_tableFails {s : State} (hr : WfRange s.rom) (op : HostOp) :
    hostMove op s ≠ .refused .tableFailsWfRange := by
  intro h
  cases op with
  | writeReg n v =>
    by_cases hn : n = 0
    · subst hn
      rcases Nat.mod_two_eq_zero_or_one v with hv | hv
      · cases (hostMove_writeCtrl_even hv s).symm.trans h
      · obtain ⟨o, ho⟩ := exec_start_refused_cases ((hostMove_writeCtrl_odd hv s).symm.trans h)
        cases ho
    · cases (hostMove_writeReg hn v s).symm.trans h
  | readReg n =>
    cases hread : readRegister n s with
    | value v => cases (hostMove_readReg_value hread).symm.trans h
    | noValue o => cases (hostMove_readReg_noValue hread).symm.trans h
  | storeSrc i b => exact storeRefusal_ne_tableFails i s (storeRefusal_of_refused (.inl h))
  | storeDst i b => exact storeRefusal_ne_tableFails i s (storeRefusal_of_refused (.inr h))
  | reset => cases h
  | idle => exact walk_ne_refused hr _ h

theorem nextMove_ne_tableFails {s : State} (hr : WfRange s.rom) : nextMove s ≠ .refused .tableFailsWfRange := by
  unfold nextMove
  split
  · exact walk_ne_refused hr _
  · rename_i op rest _
    exact hostMove_ne_tableFails (s := { s with inputs := rest }) hr op

/-- Where the check of the listed slots passes, a step is refused for its sizes or as its move is. -/
theorem step_ne_tableFails {s : State} (h : romInRange s.rom = true) : step s ≠ .refused .tableFailsWfRange := by
  unfold step
  split
  · rename_i r hc
    rw [configRefusal, if_pos h] at hc
    split_ifs at hc
    exact Option.some.inj hc ▸ (by simp)
  · exact nextMove_ne_tableFails (wfRange_of_romInRange h)

end Sys2Proof.Machine

namespace Sys2Proof

open Sys2Proof.Machine

/-! ### A call without a reachable sentinel (R89) -/

/-- `t` is a state of a call over the table `rom` that is not complete: while the call runs, its node is reachable. -/
structure Incomplete (rom : List (Nat × SlotWord)) (t : State) : Prop where
  rom_eq : t.rom = rom
  success : t.success = false
  reachable : t.state = .busy → Reachable rom t.node

/-- The `START` step clears `SUCCESS` and puts the walker at the root (R101). -/
theorem incomplete_beginCall (s : State) : Incomplete s.rom (beginCall s) := by
  have hstart : (beginCall s).success = false ∧ ((beginCall s).state = .busy → (beginCall s).node = 0) := by
    rcases beginCall_cases s with ⟨_, h⟩ | ⟨_, _, h⟩ | ⟨_, _, _, h⟩ | ⟨_, _, _, h⟩ <;> simp [h]
  exact ⟨(sameConfig_beginCall s).rom, hstart.1, fun hb => hstart.2 hb ▸ .root⟩

/-- A tail at a reachable node leaves the call incomplete, whether it ends it or not (R104). -/
theorem incomplete_tail {rom : List (Nat × SlotWord)} {s : State} (hrom : s.rom = rom) (hs : s.success = false)
    (hn : Reachable rom s.node) : Incomplete rom (tail s) := by
  refine ⟨by rw [tail_rom, hrom], ?_, fun _ => by rwa [tail_node]⟩
  rcases tail_cases s with ⟨_, h⟩ | ⟨_, h⟩
  · rw [h, finish_success]
  · rw [h, advanceBit_success, hs]

/-- Only the slot of a reachable node that holds the sentinel completes a call (R89, R105). -/
theorem incomplete_walk {rom : List (Nat × SlotWord)} (hend : ¬ WfEnd rom) {u v : State} (hu : Running u)
    (hP : Incomplete rom u) (h : walk u = .next v) : Incomplete rom v := by
  have hnode : Reachable rom u.node := hP.reachable hu.busy
  have hsuccess := hP.success
  obtain rfl := hP.rom_eq
  rcases walk_next_cases h with ⟨hb, _⟩ | ⟨_, _, _, hexec⟩
  · exact absurd hu.busy hb
  rcases exec_next_cases hexec with ⟨hi, _⟩ | ⟨b, _, rfl⟩ | ⟨n, hi, rfl⟩ | ⟨r, hi, _⟩ | ⟨r, hi, _⟩
  · exact absurd ⟨_, _, hnode, slotValue_of_decodeSlot_end hi⟩ hend
  · rcases emitByte_cases b u with ⟨_, he⟩ | ⟨_, he⟩
    · rw [he]
      exact ⟨rfl, hsuccess, fun hb => by cases hb⟩
    · rw [he]
      exact incomplete_tail rfl hsuccess .root
  · exact incomplete_tail rfl hsuccess (hnode.step (nodeEdge_of_decodeSlot hi))
  · exact absurd hi (decodeSlot_ne_start _ r)
  · exact absurd hi (decodeSlot_ne_start _ r)

/-! ## The decode table: the statements -/

/-- Settles O10: the model checks the listed slots, which on a canonical table is `WF_range`, and no move is refused for a
table within it. -/
theorem tableOutsideRangeIsRefused : Obligations.TableOutsideRangeIsRefused :=
  ⟨fun _ => step_of_not_wfRange, fun _ hwf hbelow hr => step_ne_tableFails (romInRange_of_wfRange hwf hbelow hr)⟩

/-- Settles O12: the walk from the root, with no node passed before it. -/
theorem treeWalksEndWithin256Bits : Obligations.TreeWalksEndWithin256Bits := by
  intro rom ht bits hlen
  obtain ⟨k, v, hk, hleaf, hclass⟩ :=
    leafOf_of_wfTree ht (bits := bits) (seen := ∅) .root (by simp) (by rw [Finset.card_empty]; omega)
  exact ⟨k, v, by omega, hleaf, hclass⟩

/-- Settles O51: `Incomplete` holds after the `START` step and every bit step keeps it. -/
theorem withoutSentinelNoCallCompletes : Obligations.WithoutSentinelNoCallCompletes := by
  intro s _ hr hend
  obtain ⟨k, t, hends, ht⟩ :=
    call_ends_with hr (incomplete_beginCall { s with inputs := [] }) fun _ _ => incomplete_walk hend
  exact ⟨k, t, hends, ht.success⟩

/-- Settles O9: the lookup is the signed reading of a 16-bit word. -/
theorem lookupGivesTheSignedSlotWord : Obligations.LookupGivesTheSignedSlotWord :=
  fun _ _ _ => ⟨rfl, slotValue_range _⟩

/-- Settles O13: four slots of class `NODE`, each naming the next node, and a leaf. -/
theorem scenarioPathIsACodewordOfOne : Obligations.ScenarioPathIsACodewordOfOne := by
  rintro rom ⟨h0, h1, h3, h6, h12⟩
  have e0 : NodeEdge rom 0 true 1 := nodeEdge_of_tableNext h0 (by decide)
  have e1 : NodeEdge rom 1 true 3 := nodeEdge_of_tableNext h1 (by decide)
  have e3 : NodeEdge rom 3 true 6 := nodeEdge_of_tableNext h3 (by decide)
  have e6 : NodeEdge rom 6 false 12 := nodeEdge_of_tableNext h6 (by decide)
  have hleaf : leafOf rom 12 [true] = some (-1) := (leafOf_cons_leaf (by rw [h12]; decide)).mpr ⟨rfl, h12⟩
  refine ⟨-1, ?_, by decide, by decide⟩
  rw [leafOf_cons_edge _ e0, leafOf_cons_edge _ e1, leafOf_cons_edge _ e3, leafOf_cons_edge _ e6, hleaf]

end Sys2Proof

namespace Sys2Proof.Machine

/-! ## The bit-tree walker

SUPPORT. What no instruction touches, what `START`, the tail and `EMIT` leave alone beyond that, and the walker's step as
the run of the slot it fetched. -/

/-! ### What no instruction touches (R157, R158) -/

/-- The parameters and the table, `SRC`, the operand registers but `SRC_OFF`, and what the host holds are as they were. -/
structure ExecFrame (s t : State) : Prop extends SameConfig s t where
  src : t.src = s.src
  srcLen : t.srcLen = s.srcLen
  dstOff : t.dstOff = s.dstOff
  srcOffHeld : t.srcOffHeld = s.srcOffHeld
  srcLenHeld : t.srcLenHeld = s.srcLenHeld
  dstOffHeld : t.dstOffHeld = s.dstOffHeld
  readData : t.readData = s.readData
  inputs : t.inputs = s.inputs

theorem ExecFrame.readSrc_eq {s t : State} (h : ExecFrame s t) (a : Nat) : readSrc t a = readSrc s a := by
  rw [readSrc, h.src, readSrc]

theorem readDst_of_dst_eq {s t : State} (h : t.dst = s.dst) (a : Nat) : readDst t a = readDst s a := by
  rw [readDst, h, readDst]

theorem execFrame_emitByte (b : Byte) (s : State) : ExecFrame s (emitByte b s) := by
  constructor
  case toSameConfig => exact sameConfig_emitByte b s
  all_goals rcases emitByte_cases b s with ⟨_, h⟩ | ⟨_, h⟩ <;> simp [h]

theorem execFrame_beginCall (s : State) : ExecFrame s (beginCall s) := by
  constructor
  case toSameConfig => exact sameConfig_beginCall s
  all_goals rcases beginCall_cases s with ⟨_, h⟩ | ⟨_, _, h⟩ | ⟨_, _, _, h⟩ | ⟨_, _, _, h⟩ <;> simp [h]

theorem execFrame_exec {i : Instr} {s t : State} (h : exec i s = .next t) : ExecFrame s t := by
  have hconfig : SameConfig s t := sameConfig_exec h
  rcases exec_next_cases h with ⟨_, rfl⟩ | ⟨b, _, rfl⟩ | ⟨n, _, rfl⟩ | ⟨_, _, _, rfl⟩ | ⟨_, _, _, _, rfl⟩
  · exact ⟨hconfig, rfl, rfl, rfl, rfl, rfl, rfl, rfl, rfl⟩
  · exact execFrame_emitByte b s
  · constructor <;> simp [hconfig]
  · exact ⟨hconfig, rfl, rfl, rfl, rfl, rfl, rfl, rfl, rfl⟩
  · exact execFrame_beginCall s

/-! ### `START` (R101) -/

/-- Where the operands hold values, an accepted `START` runs its lines. -/
theorem exec_start_of_held (r : BitVec 7) {s : State} (h : s.state = .idle ∨ s.state = .done) (hoff : s.srcOffHeld = true)
    (hlen : s.srcLenHeld = true) (hdst : s.dstOffHeld = true) : exec (.start r) s = .next (beginCall s) :=
  exec_start_accepted r h (operandWithoutValue_none_iff.mpr ⟨hoff, hlen, hdst⟩)

/-- A `START` that answers is ignored, or runs its lines. -/
theorem exec_start_next_cases {r : BitVec 7} {s t : State} (h : exec (.start r) s = .next t) :
    t = s ∨ t = beginCall s := by
  rcases exec_next_cases h with ⟨hi, _⟩ | ⟨_, hb, _⟩ | ⟨_, hi, _⟩ | ⟨_, _, _, ht⟩ | ⟨_, _, _, _, ht⟩
  · cases hi
  · cases hb
  · cases hi
  · exact .inl ht
  · exact .inr ht

/-- `START` stores nothing and does not move `SRC_OFF` (R101). -/
theorem beginCall_dst_srcOff (s : State) : (beginCall s).dst = s.dst ∧ (beginCall s).srcOff = s.srcOff := by
  rcases beginCall_cases s with ⟨_, h⟩ | ⟨_, _, h⟩ | ⟨_, _, _, h⟩ | ⟨_, _, _, h⟩ <;> simp [h]

/-! ### The tail (R104) -/

/-- The advance of the bit position, as an update of `BITNUM` and `SRC_OFF`. -/
theorem advanceBit_updates (s : State) : ∃ (bn : BitVec 4) (off : Nat),
    (s.bitnum = 1 → bn = 8 ∧ off = s.srcOff + 1) ∧
    (2 ≤ s.bitnum.toNat → bn.toNat = s.bitnum.toNat - 1 ∧ off = s.srcOff) ∧
    advanceBit s = { s with bitnum := bn, srcOff := off } := by
  rcases advanceBit_cases s with ⟨h1, h⟩ | ⟨hne, h⟩
  · exact ⟨8, s.srcOff + 1, fun _ => ⟨rfl, rfl⟩, fun h2 => absurd h2 (by simp [h1]), h⟩
  · exact ⟨s.bitnum - 1, s.srcOff, fun h1 => absurd h1 hne, fun h2 => ⟨bitnum_pred_toNat (by omega), rfl⟩, h⟩

/-- Where the call goes on, the tail leaves the results alone. -/
theorem tail_results_of_busy {s : State} (h : (tail s).state = .busy) :
    (tail s).success = s.success ∧ (tail s).bytesWritten = s.bytesWritten := by
  rcases tail_cases s with ⟨_, ht⟩ | ⟨_, ht⟩
  · rw [ht] at h
    cases h
  · simp [ht]

/-! ### `EMIT` (R64, R106) -/

theorem emitByte_of_room (b : Byte) {s : State} (h : s.destPos < s.dstSize) :
    emitByte b s = tail (acted 0 (s.destPos + 1) (Memory.write Config.unlistedByte s.dst s.destPos b) s) :=
  if_neg (by omega)

theorem emitByte_of_full (b : Byte) {s : State} (h : s.dstSize ≤ s.destPos) :
    emitByte b s = raiseFault .dstOverflow s :=
  if_pos h

theorem byteOfInstr_of_emit {i : Instr} (h : instrClass i = some .emit) : ∃ b, byteOfInstr i = some b := by
  cases i with
  | emitZero => exact ⟨_, rfl⟩
  | emitNear k => exact ⟨_, rfl⟩
  | emitWide k => exact ⟨_, rfl⟩
  | _ => cases h

/-- The byte of the row "observed range" is `256 - k` (R64). -/
theorem byteOfNear_eq (k : BitVec 8) : byteOfNear k = BitVec.ofNat 8 (0x100 - k.toNat) := by
  have h := emittedByte_toNat (k.toNat - 256)
  apply BitVec.eq_of_toNat_eq
  rw [byteOfNear, BitVec.toNat_ofNat]
  omega

/-- The byte of the row "wide" is the low byte of the negated word (R64). -/
theorem byteOfWide_eq (k : BitVec 15) : byteOfWide k = BitVec.ofNat 8 (0x10000 - (0x8000 + k.toNat)) := by
  have h := emittedByte_toNat ((32768 + k.toNat : Int) - 65536)
  apply BitVec.eq_of_toNat_eq
  rw [byteOfWide, BitVec.toNat_ofNat]
  omega

/-- The only byte of `DST` that `EMIT` may change is the one at `DEST_POS`, and that only with room. -/
theorem readDst_emitByte (b : Byte) {s : State} {a : Nat} (h : a ≠ s.destPos ∨ s.dstSize ≤ s.destPos) :
    readDst (emitByte b s) a = readDst s a := by
  rcases emitByte_cases b s with ⟨_, he⟩ | ⟨hroom, he⟩
  · rw [he]
    rfl
  · have hne : a ≠ s.destPos := h.resolve_right (by omega)
    simp [he, readDst, read_write_other b hne]

/-- Where the call goes on, `EMIT` leaves `END_POS` and the results alone. -/
theorem emitByte_of_busy {b : Byte} {s : State} (h : (emitByte b s).state = .busy) :
    (emitByte b s).endPos = s.endPos ∧ (emitByte b s).success = s.success ∧
      (emitByte b s).bytesWritten = s.bytesWritten := by
  rcases emitByte_cases b s with ⟨_, he⟩ | ⟨_, he⟩
  · rw [he] at h
    cases h
  · rw [he] at h ⊢
    exact ⟨tail_endPos _, tail_results_of_busy h⟩

/-! ### The step of a running call (R102) -/

/-- Where the host's next move is idle, or none is left, the step is the walker's. -/
theorem step_of_idle {s : State} {rest : List HostOp} (hc : configRefusal s = none)
    (hin : s.inputs = .idle :: rest ∨ (s.inputs = [] ∧ rest = [])) : step s = walk { s with inputs := rest } := by
  rcases hin with hin | ⟨hin, rfl⟩
  · exact step_of_input hc hin
  · rw [step_silent hc hin, ← hin]

/-- The source bit as a number: bit `BITNUM - 1` of the byte (R12, R70). -/
theorem sourceBit_toNat (s : State) :
    (sourceBit s).toNat = ((readSrc s s.srcOff).toNat >>> (s.bitnum.toNat - 1)) % 2 := by
  rw [sourceBit, bitOf, ← BitVec.testBit_toNat, Nat.toNat_testBit, Nat.shiftRight_eq_div_pow]

/-- With a source byte to read and a legal `BITNUM`, the walker runs the slot at `NODE` and the source bit (R60, R102). -/
theorem walk_eq_exec {s : State} (hb : s.state = .busy) (hsrc : s.srcOff < s.srcSize) (hpos : 1 ≤ s.bitnum.toNat)
    (hle : s.bitnum.toNat ≤ 8) : walk s = exec (decodeSlot (romWord s.rom s.node (sourceBit s))) s := by
  have hbit : bitnumLegal s.bitnum = true := by simp [bitnumLegal, hpos, hle]
  simp only [walk_busy hb, bitStep, fetchSlot, if_pos hsrc, if_pos hbit]

end Sys2Proof.Machine

namespace Sys2Proof

open Sys2Proof.Machine

/-! ## The bit-tree walker: the statements -/

/-- Settles O33: `EMIT` stores at `DEST_POS` and runs the tail, or raises the fault and stores nothing. -/
theorem frameOfEmit : Obligations.FrameOfEmit := by
  intro i s t _ hi h
  have hf : ExecFrame s t := execFrame_exec h
  obtain ⟨b, hb⟩ := byteOfInstr_of_emit hi
  obtain rfl := Host.Outcome.next.inj ((exec_of_byteOfInstr hb s).symm.trans h)
  exact ⟨fun a ha => readDst_emitByte b ha, hf.readSrc_eq, hf.rom, hf.aw, hf.srcSize, hf.dstSize, hf.srcLen, hf.dstOff,
    hf.srcOffHeld, hf.srcLenHeld, hf.dstOffHeld, hf.readData, hf.inputs, emitByte_of_busy,
    fun hroom => by simp [emitByte_of_room b hroom], fun hfull => by simp [emitByte_of_full b hfull]⟩

/-- Settles O21: the four ends of the lines of `START`, in the order of their tests. -/
theorem startStepFollowsItsRule : Obligations.StartStepFollowsItsRule := by
  refine fun r s => ⟨fun h => gives_of_eq (exec_start_ignored r h), fun hst hoff hlen hdst => ?_⟩
  refine gives_of_eq ((exec_start_of_held r hst hoff hlen hdst).trans (congrArg _ ?_))
  rcases beginCall_cases s with ⟨hsrc, h⟩ | ⟨hsrc, hrange, h⟩ | ⟨hsrc, hrange, hempty, h⟩ | ⟨hsrc, hrange, hne, h⟩
  · rw [h, if_pos hsrc]
    rfl
  · rw [h, if_neg (by omega), if_pos hrange]
    rfl
  · rw [h, if_neg (by omega), if_neg (by omega), if_pos hempty]
    rfl
  · rw [h, if_neg (by omega), if_neg (by omega), if_neg (by omega)]
    rfl

/-- Settles O22: the host's duties leave only the last end of the lines of `START`. -/
theorem startBeginsACall : Obligations.StartBeginsACall := by
  intro r s hst hoff hlen hdst hwindow hrange hne
  have hbegin : beginCall s = enterBusy (openCursor (clearResults s)) := by
    rcases beginCall_cases s with ⟨hout, _⟩ | ⟨_, hout, _⟩ | ⟨_, _, hempty, _⟩ | ⟨_, _, _, h⟩
    · omega
    · omega
    · omega
    · exact h
  have h := exec_start_of_held r hst hoff hlen hdst
  rw [hbegin] at h
  exact ⟨_, h, rfl, rfl, rfl, rfl, rfl, rfl, rfl, rfl, rfl, rfl⟩

/-- Settles O26: `END` is `finish` after the terminator's byte. -/
theorem endFinishesComplete : Obligations.EndFinishesComplete :=
  fun _ _ => gives_of_eq rfl

/-- Settles O27: the byte of each row, and the one action of the three. -/
theorem emitStoresItsByteAndRestarts : Obligations.EmitStoresItsByteAndRestarts := by
  intro i b s hi _
  have hbyte : byteOfInstr i = some b := by
    rcases hi with ⟨rfl, rfl⟩ | ⟨k, rfl, rfl⟩ | ⟨k, rfl, rfl⟩
    · rfl
    · exact congrArg some (byteOfNear_eq k)
    · exact congrArg some (byteOfWide_eq k)
  have hexec : exec i s = .next (emitByte b s) := exec_of_byteOfInstr hbyte s
  exact ⟨fun hroom => gives_of_eq (hexec.trans (congrArg _ (emitByte_of_room b hroom))),
    fun hfull => gives_of_eq (hexec.trans (congrArg _ (emitByte_of_full b hfull)))⟩

/-- Settles O29. -/
theorem nodeDescendsToItsTarget : Obligations.NodeDescendsToItsTarget :=
  fun _ _ _ => gives_of_eq rfl

/-- Settles O31: the advance, then the exhaustion test on the advanced state. -/
theorem tailAdvancesAndTestsExhaustion : Obligations.TailAdvancesAndTestsExhaustion := by
  intro s _
  obtain ⟨bn, off, hlast, hmore, hadv⟩ := advanceBit_updates s
  have hcases := tail_cases s
  rw [hadv] at hcases
  refine ⟨bn, off, hlast, hmore, fun hend => congrArg live ?_, fun hgo => congrArg live ?_⟩
  · exact (hcases.resolve_right fun h => h.1 hend).2
  · exact (hcases.resolve_left fun h => hgo h.1).2

/-- Settles O32: `END` finishes the call; `NODE` runs the tail, which leaves the results alone where the call goes on. -/
theorem frameOfEndAndNode : Obligations.FrameOfEndAndNode := by
  intro i s t hi h
  have hf : ExecFrame s t := execFrame_exec h
  have hrest : t.dst = s.dst ∧ t.faultCode = s.faultCode ∧ (t.state = .busy → t.destPos = s.destPos ∧
      t.endPos = s.endPos ∧ t.success = s.success ∧ t.bytesWritten = s.bytesWritten) := by
    rcases hi with rfl | ⟨n, rfl⟩
    · obtain rfl := Host.Outcome.next.inj h
      exact ⟨rfl, rfl, fun hb => by cases hb⟩
    · obtain rfl := Host.Outcome.next.inj h
      exact ⟨tail_dst _, tail_faultCode _, fun hb => ⟨tail_destPos _, tail_endPos _, tail_results_of_busy hb⟩⟩
  obtain ⟨hdst, hcode, hbusy⟩ := hrest
  exact ⟨readDst_of_dst_eq hdst, hf.readSrc_eq, hf.rom, hf.aw, hf.srcSize, hf.dstSize, hf.srcLen, hf.dstOff, hcode,
    hf.srcOffHeld, hf.srcLenHeld, hf.dstOffHeld, hf.readData, hf.inputs, hbusy⟩

/-- Settles O34: an ignored `START` answers the state itself. -/
theorem frameOfStart : Obligations.FrameOfStart := by
  intro r s t h
  have hf : ExecFrame s t := execFrame_exec h
  have hstored : t.dst = s.dst ∧ t.srcOff = s.srcOff := by
    rcases exec_start_next_cases h with rfl | rfl
    · exact ⟨rfl, rfl⟩
    · exact beginCall_dst_srcOff s
  have hignored (hst : s.state = .busy ∨ s.state = .fault) : t = s :=
    Host.Outcome.next.inj (h.symm.trans (exec_start_ignored r hst))
  obtain ⟨hdst, hoff⟩ := hstored
  refine ⟨readDst_of_dst_eq hdst, hf.readSrc_eq, hf.rom, hf.aw, hf.srcSize, hf.dstSize, hoff, hf.srcLen, hf.dstOff,
    hf.srcOffHeld, hf.srcLenHeld, hf.dstOffHeld, hf.readData, hf.inputs, fun hst => ?_, fun hb => ?_⟩
  · rw [hignored hst]
    exact ⟨rfl, rfl, rfl, rfl⟩
  · rw [hignored (.inl hb)]
    exact ⟨rfl, rfl, rfl, rfl⟩

/-- Settles O35: the word the statement writes out is the one the walker fetches. -/
theorem stepRunsTheFetchedSlot : Obligations.StepRunsTheFetchedSlot := by
  intro s rest i hc hb hin hsrc hpos hle hi
  rw [← sourceBit_toNat] at hi
  obtain rfl := Except.ok.inj hi
  rw [step_of_idle hc hin]
  exact walk_eq_exec hb hsrc hpos hle

/-- Settles O37. -/
theorem walkerWaitsOutsideBusy : Obligations.WalkerWaitsOutsideBusy :=
  fun _ hc hb hin => gives_of_eq ((step_silent hc hin).trans (walk_waits hb))

end Sys2Proof

namespace Sys2Proof

open Sys2Proof.Machine

/-! ## Every step keeps the invariant (R136, R138)

SUPPORT. The invariant is what holds of the configuration, the spaces and the operand registers in every state, the
agreement of the results with `STATE`, and in `BUSY` the invariant of the call; the widths of the other registers follow. -/

/-- What `Inv` says in every state, whatever `STATE` is: the configuration, the spaces and the operand registers. -/
structure GroundInv (s : State) : Prop where
  config : configRefusal s = none
  spaces : SpacesInv s
  srcOff : s.srcOff < 2 ^ s.aw
  srcLen : s.srcLen < 2 ^ s.aw
  dstOff : s.dstOff < 2 ^ s.aw

theorem Inv.ground {s : State} (h : Inv s) : GroundInv s :=
  ⟨h.config, h.spaces, h.width.srcOff, h.width.srcLen, h.width.dstOff⟩

/-- The span sizes are numbers of the width (R4). -/
theorem sizes_lt_of_config {s : State} (h : configRefusal s = none) : s.srcSize < 2 ^ s.aw ∧ s.dstSize < 2 ^ s.aw := by
  obtain ⟨_, hsrc, hdst⟩ := configRefusal_none_iff.mp h
  have := Nat.two_pow_pos s.aw
  omega

/-- The invariant from its three parts: the registers that the spans bound fit the width because the spans do (R138). -/
theorem GroundInv.inv {s : State} (hg : GroundInv s) (hst : StatusInv s) (hb : s.state = .busy → BusyInv s) : Inv s := by
  obtain ⟨hsrc, hdst⟩ := sizes_lt_of_config hg.config
  exact
    { config := hg.config
      spaces := hg.spaces
      width :=
        { srcOff := hg.srcOff
          destPos := fun h => (hb h).destHigh.trans_lt hdst
          endPos := fun h => (hb h).inSpan.trans_lt hsrc
          srcLen := hg.srcLen
          dstOff := hg.dstOff
          bytesWritten := hst.bytesFit.trans_lt hdst }
      status := hst
      busy := hb }

/-- An instruction leaves what holds in every state but for `SRC_OFF` and the bytes of `DST`. -/
theorem GroundInv.of_frame {s t : State} (hg : GroundInv s) (hf : ExecFrame s t) (hoff : t.srcOff < 2 ^ s.aw)
    (hwf : Memory.wf Config.unlistedByte t.dst = true) (hbelow : Memory.below s.dstSize t.dst = true) : GroundInv t where
  config := hf.configRefusal_eq.trans hg.config
  spaces :=
    { romWf := hf.rom ▸ hg.spaces.romWf
      romBelow := hf.rom ▸ hg.spaces.romBelow
      srcWf := hf.src ▸ hg.spaces.srcWf
      srcBelow := by rw [hf.src, hf.srcSize]; exact hg.spaces.srcBelow
      dstWf := hwf
      dstBelow := hf.dstSize ▸ hbelow }
  srcOff := hf.aw ▸ hoff
  srcLen := by rw [hf.srcLen, hf.aw]; exact hg.srcLen
  dstOff := by rw [hf.dstOff, hf.aw]; exact hg.dstOff

/-! ### The results by `STATE` (R22, R26) -/

theorem statusInv_finish (ok : Bool) {n : Nat} {s : State} (hf : s.faultCode = .none) (hn : n ≤ s.dstSize) :
    StatusInv (finish ok n s) where
  faultCode := by simp [hf]
  success _ := rfl
  bytesWritten h := absurd rfl h
  bytesFit := hn

theorem statusInv_raiseFault {code : FaultCode} {s : State} (hcode : code ≠ .none) (hs : s.success = false)
    (hn : s.bytesWritten = 0) : StatusInv (raiseFault code s) where
  faultCode := by simp [hcode]
  success h := absurd (hs.symm.trans h) Bool.false_ne_true
  bytesWritten _ := hn
  bytesFit := by simp [hn]

/-- While a call runs all three results are clear. -/
theorem statusInv_busy {s : State} (hb : s.state = .busy) (hf : s.faultCode = .none) (hs : s.success = false)
    (hn : s.bytesWritten = 0) : StatusInv s where
  faultCode := by simp [hf, hb]
  success h := absurd (hs.symm.trans h) Bool.false_ne_true
  bytesWritten _ := hn
  bytesFit := by omega

theorem StatusInv.faultCode_none {s : State} (h : StatusInv s) (hb : s.state = .busy) : s.faultCode = .none :=
  by_contra fun hf => absurd (hb.symm.trans (h.faultCode.mp hf)) (by simp)

theorem StatusInv.success_false {s : State} (h : StatusInv s) (hb : s.state = .busy) : s.success = false :=
  Bool.eq_false_iff.mpr fun hs => absurd (hb.symm.trans (h.success hs)) (by simp)

/-! ### The bit step -/

theorem execFrame_walk {s t : State} (hb : s.state = .busy) (h : walk s = .next t) : ExecFrame s t := by
  rcases walk_next_cases h with ⟨hb', _⟩ | ⟨_, _, _, hexec⟩
  · exact absurd hb hb'
  · exact execFrame_exec hexec

/-- A bit step moves `SRC_OFF` by one byte at most (R104, R105). -/
theorem walk_srcOff_le {s t : State} (hb : s.state = .busy) (h : walk s = .next t) : t.srcOff ≤ s.srcOff + 1 := by
  have htail (n : NodeId) (p : Nat) (d : List Host.Cell) : (tail (acted n p d s)).srcOff ≤ s.srcOff + 1 := by
    rcases tail_cases (acted n p d s) with ⟨_, ht⟩ | ⟨_, ht⟩
    · rw [ht, finish_srcOff]
      exact advanceBit_srcOff_le _
    · rw [ht]
      exact advanceBit_srcOff_le _
  rcases bitStep_next_cases hb h with rfl | ⟨_, rfl⟩ | ⟨_, b, rfl⟩ | ⟨n, rfl⟩
  · exact le_rfl
  · exact Nat.le_succ _
  · exact htail _ _ _
  · exact htail _ _ _

/-- A bit step leaves `DST` alone or stores one byte with room for it (R33). -/
theorem walk_dst_cases {s t : State} (hb : s.state = .busy) (h : walk s = .next t) :
    t.dst = s.dst ∨ s.destPos < s.dstSize ∧ ∃ b, t.dst = Memory.write Config.unlistedByte s.dst s.destPos b := by
  rcases bitStep_next_cases hb h with rfl | ⟨_, rfl⟩ | ⟨hroom, b, rfl⟩ | ⟨n, rfl⟩
  · exact .inl rfl
  · exact .inl rfl
  · exact .inr ⟨hroom, b, by simp⟩
  · exact .inl (by simp)

/-- Every way a bit step goes on: the advance of the bit position after an action that stored one byte with room for it,
or none. -/
theorem walk_goes_on {s t : State} (hs : BusyInv s) (hb : s.state = .busy) (h : walk s = .next t)
    (hgo : t.state = .busy) :
    ∃ n p d, t = advanceBit (acted n p d s) ∧ s.destPos ≤ p ∧ p ≤ s.destPos + 1 ∧ p ≤ s.dstSize ∧
      (advanceBit (acted n p d s)).srcOff ≠ s.endPos := by
  have htail {n : NodeId} {p : Nat} {d : List Host.Cell} (ht : (tail (acted n p d s)).state = .busy) :
      tail (acted n p d s) = advanceBit (acted n p d s) ∧ (advanceBit (acted n p d s)).srcOff ≠ s.endPos := by
    rcases tail_cases (acted n p d s) with ⟨_, h⟩ | ⟨hne, h⟩
    · rw [h] at ht
      cases ht
    · exact ⟨h, hne⟩
  rcases bitStep_next_cases hb h with rfl | ⟨_, rfl⟩ | ⟨hroom, b, rfl⟩ | ⟨n, rfl⟩
  · cases hgo
  · cases hgo
  · exact ⟨_, _, _, (htail hgo).1, Nat.le_succ _, le_rfl, hroom, (htail hgo).2⟩
  · exact ⟨_, _, _, (htail hgo).1, le_rfl, Nat.le_succ _, hs.destHigh, (htail hgo).2⟩

theorem groundInv_walk {s t : State} (hs : Inv s) (hb : s.state = .busy) (h : walk s = .next t) : GroundInv t := by
  have hoff : t.srcOff < 2 ^ s.aw := by
    have hguard := (hs.busy hb).guard
    have hspan := (hs.busy hb).inSpan
    have hsize := (sizes_lt_of_config hs.config).1
    have hle := walk_srcOff_le hb h
    omega
  have hspaces := hs.spaces
  rcases walk_dst_cases hb h with hd | ⟨hroom, b, hd⟩
  · exact hs.ground.of_frame (execFrame_walk hb h) hoff (hd ▸ hspaces.dstWf) (hd ▸ hspaces.dstBelow)
  · exact hs.ground.of_frame (execFrame_walk hb h) hoff (hd ▸ wf_write _ b hspaces.dstWf)
      (hd ▸ below_write b hroom hspaces.dstBelow)

theorem statusInv_tail {s : State} (hb : s.state = .busy) (hf : s.faultCode = .none) (hs : s.success = false)
    (hn : s.bytesWritten = 0) (hroom : s.destPos ≤ s.dstSize) : StatusInv (tail s) := by
  rcases tail_cases s with ⟨_, h⟩ | ⟨_, h⟩
  · rw [h]
    exact statusInv_finish false (by simpa using hf) (by rw [advanceBit_dstSize]; omega)
  · rw [h]
    exact statusInv_busy (by simpa using hb) (by simpa using hf) (by simpa using hs) (by simpa using hn)

theorem statusInv_walk {s t : State} (hs : Inv s) (hb : s.state = .busy) (h : walk s = .next t) : StatusInv t := by
  have hf := hs.status.faultCode_none hb
  have hsuccess := hs.status.success_false hb
  have hbytes := (hs.busy hb).noBytes
  have hhigh := (hs.busy hb).destHigh
  rcases bitStep_next_cases hb h with rfl | ⟨_, rfl⟩ | ⟨hroom, b, rfl⟩ | ⟨n, rfl⟩
  · exact statusInv_finish true hf (by simp only; omega)
  · exact statusInv_raiseFault (by simp) hsuccess hbytes
  · exact statusInv_tail hb hf hsuccess hbytes hroom
  · exact statusInv_tail hb hf hsuccess hbytes hhigh

theorem inv_walk {s t : State} (hs : Inv s) (h : walk s = .next t) : Inv t := by
  by_cases hb : s.state = .busy
  · refine (groundInv_walk hs hb h).inv (statusInv_walk hs hb h) fun hgo => ?_
    obtain ⟨n, p, d, rfl, hlow, hnext, hroom, hne⟩ := walk_goes_on (hs.busy hb) hb h hgo
    exact busyInv_advanceBit (hs.busy hb) n d hlow hnext hroom hne
  · rw [walk_waits hb] at h
    exact Host.Outcome.next.inj h ▸ hs

/-! ### `START` and the host's other moves -/

/-- The `START` lines keep the invariant (R101). -/
theorem inv_beginCall {s : State} (hs : Inv s) (hheld : operandWithoutValue s = none) : Inv (beginCall s) := by
  have hg : GroundInv (beginCall s) := by
    obtain ⟨hdst, hoff⟩ := beginCall_dst_srcOff s
    exact hs.ground.of_frame (execFrame_beginCall s) (hoff ▸ hs.ground.srcOff) (hdst ▸ hs.spaces.dstWf)
      (hdst ▸ hs.spaces.dstBelow)
  rcases beginCall_cases s with ⟨_, h⟩ | ⟨_, _, h⟩ | ⟨_, _, _, h⟩ | ⟨hsrc, hdst, hlen, h⟩ <;> rw [h] at hg ⊢
  · exact hg.inv (statusInv_raiseFault (by simp) rfl rfl) (by simp)
  · exact hg.inv (statusInv_raiseFault (by simp) rfl rfl) (by simp)
  · exact hg.inv (statusInv_finish false rfl (Nat.zero_le _)) (by simp)
  · exact hg.inv (statusInv_busy rfl rfl rfl rfl) fun _ =>
      busyInv_begin (operandWithoutValue_none_iff.mp hheld) hsrc hdst hlen

/-- A `START` keeps the invariant, whether it is accepted or ignored (R27). -/
theorem inv_exec_start {r : BitVec 7} {s t : State} (hs : Inv s) (h : exec (.start r) s = .next t) : Inv t := by
  rcases exec_next_cases h with ⟨hi, _⟩ | ⟨_, hb, _⟩ | ⟨_, hi, _⟩ | ⟨_, _, _, rfl⟩ | ⟨_, _, _, hheld, rfl⟩
  · cases hi
  · cases hb
  · cases hi
  · exact hs
  · exact inv_beginCall hs hheld

/-- The host's own fields are no part of the invariant (log 8, log 9). -/
theorem inv_hostFields {s : State} (hs : Inv s) (rest : List HostOp) (d : Option Nat) :
    Inv { s with inputs := rest, readData := d } where
  config := hs.config
  spaces := { hs.spaces with }
  width := { hs.width with }
  status := { hs.status with }
  busy h := { hs.busy h with }

/-- Where the host may write an operand register, the register takes a number of the width and nothing else changes. -/
theorem inv_writeOperand (n v : Nat) {s : State} (hs : Inv s) : Inv (writeOperand n v s) := by
  have hv : registerValue s v < 2 ^ s.aw := Nat.mod_lt v (Nat.two_pow_pos s.aw)
  unfold writeOperand
  split_ifs with hw
  · have hidle (hb : s.state = .busy) : False := by simp [operandsWritable, hb] at hw
    have hg := hs.ground
    split
    · exact GroundInv.inv ⟨hg.config, { hg.spaces with }, hv, hg.srcLen, hg.dstOff⟩ { hs.status with }
        fun hb => (hidle hb).elim
    · exact GroundInv.inv ⟨hg.config, { hg.spaces with }, hg.srcOff, hv, hg.dstOff⟩ { hs.status with }
        fun hb => (hidle hb).elim
    · exact GroundInv.inv ⟨hg.config, { hg.spaces with }, hg.srcOff, hg.srcLen, hv⟩ { hs.status with }
        fun hb => (hidle hb).elim
    · exact hs
  · exact hs

/-- The host stores inside its own span, and only outside `BUSY` (R30, R163). -/
theorem inv_writeSrc {i : Nat} (b : Byte) {s : State} (hs : Inv s) (hi : i < s.srcSize) (hb : s.state ≠ .busy) :
    Inv (writeSrc s i b) := by
  have hg := hs.ground
  exact GroundInv.inv ⟨hg.config, { hg.spaces with
      srcWf := wf_write i b hg.spaces.srcWf, srcBelow := below_write b hi hg.spaces.srcBelow },
    hg.srcOff, hg.srcLen, hg.dstOff⟩ { hs.status with } fun h => absurd h hb

theorem inv_writeDst {i : Nat} (b : Byte) {s : State} (hs : Inv s) (hi : i < s.dstSize) (hb : s.state ≠ .busy) :
    Inv (writeDst s i b) := by
  have hg := hs.ground
  exact GroundInv.inv ⟨hg.config, { hg.spaces with
      dstWf := wf_write i b hg.spaces.dstWf, dstBelow := below_write b hi hg.spaces.dstBelow },
    hg.srcOff, hg.srcLen, hg.dstOff⟩ { hs.status with } fun h => absurd h hb

/-- Reset keeps the parameters and the spaces and clears the rest (R170). -/
theorem inv_applyReset {s : State} (hs : Inv s) : Inv (applyReset s) := by
  have hpos : (applyReset s).srcOff < 2 ^ (applyReset s).aw := Nat.two_pow_pos s.aw
  refine GroundInv.inv ⟨hs.config, { hs.spaces with }, hpos, hpos, hpos⟩ ⟨?_, ?_, fun _ => rfl, Nat.zero_le _⟩ ?_ <;>
    simp [applyReset, State.reset]

theorem inv_hostMove {op : HostOp} {s t : State} (hs : Inv s) (h : hostMove op s = .next t) : Inv t := by
  have hnot (hst : s.state = .idle ∨ s.state = .done) : s.state ≠ .busy := by rcases hst with h | h <;> simp [h]
  rcases hostMove_next_cases h with ⟨v, rfl, rfl | ⟨r, _, h⟩⟩ | ⟨n, v, rfl, _, rfl⟩ | ⟨n, v, rfl, _, rfl⟩ |
    ⟨i, b, rfl, hi, hst, rfl⟩ | ⟨i, b, rfl, hi, hst, rfl⟩ | ⟨rfl, rfl⟩ | ⟨rfl, h⟩
  · exact hs
  · exact inv_exec_start hs h
  · exact inv_writeOperand n v hs
  · exact inv_hostFields hs s.inputs (some v)
  · exact inv_writeSrc b hs hi (hnot hst)
  · exact inv_writeDst b hs hi (hnot hst)
  · exact inv_applyReset hs
  · exact inv_walk hs h

/-- Settles O39: the walker's move and each of the host's keep the invariant. -/
theorem everyStepKeepsTheInvariant : Obligations.EveryStepKeepsTheInvariant := by
  intro s t hs h
  rcases step_next_cases h with ⟨_, h⟩ | ⟨op, rest, _, h⟩
  · exact inv_walk hs h
  · exact inv_hostMove (inv_hostFields hs rest s.readData) h

/-- Settles O44: a bit step that goes on ends with the advance of the bit position, which is one bit. -/
theorem bitStepConsumesOneBit : Obligations.BitStepConsumesOneBit := by
  intro s t hs hb h
  have hinv : BusyInv s := hs.busy hb
  have heff : BitStepEffect s t := bitStepEffect_walk hb h
  refine ⟨heff.srcLen, heff.dstOff, fun hgo => ?_⟩
  obtain ⟨n, p, d, rfl, _⟩ := walk_goes_on hinv hb h hgo
  exact ⟨by simp, bitStepsTaken_advanceBit (s := acted n p d s) hinv.bitnumPos hinv.bitnumLe hinv.startLe⟩

/-! ## How many bit steps a call takes (R137) -/

theorem Ended.ne_busy {s : State} (h : Ended s) : s.state ≠ .busy := by
  rcases h with h | h <;> simp [h]

/-- A bit step that ends a call incomplete takes the last bit of its window (R104). -/
theorem bitsLeft_of_incomplete_end {s t : State} (hs : Running s) (h : walk s = .next t) (hd : t.state = .done)
    (ht : t.success = false) : bitsLeft s = 1 := by
  have hinv := hs.inv
  have hlast {n : NodeId} {p : Nat} {d : List Host.Cell} (ht : (tail (acted n p d s)).state = .done) :
      bitsLeft s = 1 := by
    rcases tail_cases (acted n p d s) with ⟨hend, _⟩ | ⟨_, h⟩
    · have hguard : s.srcOff < s.endPos := hinv.guard
      have hwindow := hinv.window
      have hstart := hinv.startLe
      rw [acted_endPos] at hend
      rcases advanceBit_cases (acted n p d s) with ⟨h1, ha⟩ | ⟨_, ha⟩
      · have hbit : s.bitnum = 1 := h1
        have hoff : s.srcOff + 1 = s.endPos := by simpa [ha] using hend
        simp only [bitsLeft, bitStepsTaken, callStart, hbit, BitVec.ofNat_eq_ofNat, BitVec.reduceToNat] at hstart ⊢
        omega
      · have hoff : s.srcOff = s.endPos := by simpa [ha] using hend
        omega
    · simp [h, hs.busy] at ht
  rcases bitStep_next_cases hs.busy h with rfl | ⟨_, rfl⟩ | ⟨_, b, rfl⟩ | ⟨n, rfl⟩
  · cases ht
  · cases hd
  · exact hlast hd
  · exact hlast hd

/-- An incomplete call takes every bit it has left, by induction over its bit steps (R137). -/
theorem incomplete_takes_every_bit {k : Nat} {s t : State} (hs : Running s) (h : EndsAfter s k t) (hd : t.state = .done)
    (ht : t.success = false) : k = bitsLeft s := by
  induction k generalizing s with
  | zero =>
    cases h.run
    exact absurd hs.busy h.ended.ne_busy
  | succ k ih =>
    obtain ⟨u, hu⟩ := walk_answers hs.config hs.busy hs.inv
    have hstep : step s = .next u := hs.step_eq.trans hu
    have hrest : runFor k u = .next t := (runFor_succ k hstep).symm.trans h.run
    have hends : EndsAfter u k t := ⟨hrest, h.ended, fun j v hj hv =>
      h.first (j + 1) v (by omega) ((runFor_succ j hstep).trans hv)⟩
    rcases running_walk hs hu with hend | ⟨hrun, hleft⟩
    · have hk : k = 0 := by
        by_contra hk
        exact hend.ne_busy (hends.first 0 u (by omega) rfl)
      subst hk
      cases hrest
      exact (bitsLeft_of_incomplete_end hs hu hd ht).symm
    · rw [← hleft, ← ih hrun hends]

theorem Inv.running {s : State} (hs : Inv s) (hb : s.state = .busy) (hin : s.inputs = []) : Running s :=
  ⟨hs.config, hin, hb, hs.busy hb⟩

/-- Settles O49: `running_ends` with the bits the call has left, of which an incomplete call takes every one. -/
theorem everyCallEndsWithItsBits : Obligations.EveryCallEndsWithItsBits := by
  intro s hs hb hin
  have hrun : Running s := hs.running hb hin
  have htaken := bitStepsTaken_lt hrun.inv
  obtain ⟨k, t, hk, hends, _⟩ := running_ends (P := fun _ => True) (fun _ _ _ _ _ => trivial) _ hrun le_rfl trivial
  have hpos : 1 ≤ k := by
    rcases Nat.eq_zero_or_pos k with rfl | hpos
    · cases hends.run
      exact absurd hb hends.ended.ne_busy
    · exact hpos
  refine ⟨k, t, hpos, ?_, hends.run, hends.ended, hends.first, fun hd ht => ?_⟩
  · rw [bitsLeft] at hk
    omega
  · have := incomplete_takes_every_bit hrun hends hd ht
    rw [bitsLeft] at this
    omega

/-! ## Room for every bit (R140) -/

/-- `t` is a state of the call that `s` starts, with room for a byte in every bit of its window, and no fault has ended it. -/
structure Roomy (s t : State) : Prop where
  srcLen : t.srcLen = s.srcLen
  dstOff : t.dstOff = s.dstOff
  dstSize : t.dstSize = s.dstSize
  outcome : t.state = .busy ∨
    t.state = .done ∧ t.bytesWritten ≤ 8 * s.srcLen ∧ (t.success = true → t.bytesWritten < 8 * s.srcLen)

theorem roomy_beginCall {s : State} (hsrc : s.srcOff + s.srcLen ≤ s.srcSize) (hdst : s.dstOff ≤ s.dstSize) :
    Roomy s (beginCall { s with inputs := [] }) := by
  have hf := execFrame_beginCall { s with inputs := [] }
  refine ⟨hf.srcLen, hf.dstOff, hf.dstSize, ?_⟩
  rcases beginCall_cases { s with inputs := [] } with ⟨hlt, _⟩ | ⟨_, hlt, _⟩ | ⟨_, _, _, h⟩ | ⟨_, _, _, h⟩
  · exact absurd hlt (not_lt.mpr hsrc)
  · exact absurd hlt (not_lt.mpr hdst)
  · exact .inr (by simp [h])
  · exact .inl (by rw [h]; rfl)

/-- A call has stored at most one byte for each bit it has taken, and takes its bits inside the window. -/
theorem roomy_walk {s u v : State} (hroom : s.dstOff + 8 * s.srcLen ≤ s.dstSize) (hu : Running u) (hP : Roomy s u)
    (h : walk u = .next v) : Roomy s v := by
  obtain ⟨hlen, hoff, hsize, _⟩ := hP
  have hf := execFrame_walk hu.busy h
  have hcount := hu.inv.destCount
  have htaken := bitStepsTaken_lt hu.inv
  have htail {n : NodeId} {p : Nat} {d : List Host.Cell} (hp : p ≤ u.destPos + 1) :
      (tail (acted n p d u)).state = .busy ∨ (tail (acted n p d u)).state = .done ∧
        (tail (acted n p d u)).bytesWritten ≤ 8 * s.srcLen ∧
        ((tail (acted n p d u)).success = true → (tail (acted n p d u)).bytesWritten < 8 * s.srcLen) := by
    rcases tail_cases (acted n p d u) with ⟨_, h⟩ | ⟨_, h⟩
    · refine .inr ?_
      simp only [h, finish_state, finish_bytesWritten, finish_success, acted_destPos, acted_dstOff]
      exact ⟨trivial, by omega, by simp⟩
    · exact .inl (by simp [h, hu.busy])
  refine ⟨hf.srcLen.trans hlen, hf.dstOff.trans hoff, hf.dstSize.trans hsize, ?_⟩
  rcases bitStep_next_cases hu.busy h with rfl | ⟨hfull, _⟩ | ⟨_, b, rfl⟩ | ⟨n, rfl⟩
  · exact .inr ⟨rfl, by rw [finish_bytesWritten]; omega, fun _ => by rw [finish_bytesWritten]; omega⟩
  · omega
  · exact htail le_rfl
  · exact htail (Nat.le_succ _)

/-- Settles O53: `Roomy` holds after the `START` step and every bit step keeps it. -/
theorem roomForEveryBitNeverOverflows : Obligations.RoomForEveryBitNeverOverflows := by
  intro s _ hr hsrc hroom
  obtain ⟨k, t, hends, ht⟩ := call_ends_with hr (roomy_beginCall hsrc (by omega)) fun _ _ => roomy_walk hroom
  rcases ht.outcome with hb | ⟨hd, hle, hlt⟩
  · exact absurd hb hends.ended.ne_busy
  · exact ⟨k, t, hends, hd, hle, hlt⟩

end Sys2Proof

namespace Sys2Proof.Machine

/-! ## `Decompress`, bit by bit (R130)

SUPPORT. One equation for each class of slot value: what a turn of the loop of `Decompress` does, and what a bit step of
the walker does. The two are then compared class by class. -/

/-! ### A turn of the loop -/

/-- Lines 2f and 2g of `Decompress`: the advance, and the end of the call with the last bit of the window. -/
def loopTail (x : CallInput) (bitsLeft : Nat) (c : CallCursor) : CallResult :=
  if c.advance.srcOff = x.endPos then .done false (c.destPos - x.dstOff) c.advance.srcOff c.dst
  else decompressLoop x bitsLeft c.advance

/-- The cursor after a byte has been stored: the walk is at the root again. -/
def CallCursor.stored (c : CallCursor) (b : Byte) : CallCursor :=
  { c with dst := Memory.write Config.unlistedByte c.dst c.destPos b, destPos := c.destPos + 1, node := 0 }

@[simp] theorem CallCursor.advance_destPos (c : CallCursor) : c.advance.destPos = c.destPos := by
  unfold CallCursor.advance; split <;> rfl
@[simp] theorem CallCursor.advance_dst (c : CallCursor) : c.advance.dst = c.dst := by
  unfold CallCursor.advance; split <;> rfl

section LoopTurn

variable {x : CallInput} {c : CallCursor} (k : Nat) (hin : c.srcOff < x.endPos)
include hin

theorem decompressLoop_end (hv : classOf (tableNext x.rom c.node (c.bit x)) = .endMessage) :
    decompressLoop x (k + 1) c = .done true (c.destPos - x.dstOff) (c.srcOff + 1) c.dst := by
  rw [decompressLoop, if_pos hin, if_pos (classOf_end_iff.mp hv)]

theorem decompressLoop_full (hv : classOf (tableNext x.rom c.node (c.bit x)) = .emit) (hfull : x.dstSize ≤ c.destPos) :
    decompressLoop x (k + 1) c = .fault .dstOverflow c.srcOff c.dst := by
  obtain ⟨hle, hne⟩ := classOf_emit_iff.mp hv
  rw [decompressLoop, if_pos hin, if_neg hne, if_pos ⟨hle, hfull⟩]

theorem decompressLoop_emit (hv : classOf (tableNext x.rom c.node (c.bit x)) = .emit) (hroom : c.destPos < x.dstSize) :
    decompressLoop x (k + 1) c = loopTail x k (c.stored (emittedByte (tableNext x.rom c.node (c.bit x)))) := by
  obtain ⟨hle, hne⟩ := classOf_emit_iff.mp hv
  rw [decompressLoop, if_pos hin, if_neg hne, if_neg (by omega), if_neg (by omega), if_pos hle, loopTail]
  simp only [CallCursor.advance_destPos, CallCursor.advance_dst]
  rfl

theorem decompressLoop_node (hv : classOf (tableNext x.rom c.node (c.bit x)) = .node) :
    decompressLoop x (k + 1) c = loopTail x k { c with node := targetNode (tableNext x.rom c.node (c.bit x)) } := by
  obtain ⟨hpos, hle⟩ := classOf_node_iff.mp hv
  have hnot : ¬ tableNext x.rom c.node (c.bit x) ≤ 0 := by omega
  rw [decompressLoop, if_pos hin, if_neg (by omega), if_neg (by omega), if_neg (by omega), if_neg hnot, loopTail]
  simp only [CallCursor.advance_destPos, CallCursor.advance_dst]
  rfl

theorem decompressLoop_rsvd (hv : classOf (tableNext x.rom c.node (c.bit x)) = .rsvd) :
    decompressLoop x (k + 1) c = .outsideRange := by
  have hge := classOf_rsvd_iff.mp hv
  rw [decompressLoop, if_pos hin, if_neg (by omega), if_neg (by omega), if_pos (by omega)]

end LoopTurn

/-- The bit that line 2a takes is bit `bitNum - 1` of the byte (R70). -/
theorem CallCursor.bit_eq (c : CallCursor) (x : CallInput) :
    c.bit x = (Memory.read Config.unlistedByte x.src c.srcOff).getLsbD (c.bitNum - 1) := by
  rw [CallCursor.bit, BitVec.getLsbD, Nat.testBit_eq_decide_div_mod_eq, Nat.and_one_is_mod, Nat.shiftRight_eq_div_pow]

/-! ### A bit step of the walker, by the class of its slot (R105, R106, R107) -/

theorem exec_of_end {w : SlotWord} (hv : classOf (slotValue w) = .endMessage) (s : State) :
    exec (decodeSlot w) s = .next (finish true (s.destPos - s.dstOff) { s with srcOff := s.srcOff + 1 }) := by
  rw [decodeSlot_by_value, if_pos (classOf_end_iff.mp hv)]
  rfl

theorem exec_of_emit {w : SlotWord} (hv : classOf (slotValue w) = .emit) (s : State) :
    exec (decodeSlot w) s = .next (emitByte (emittedByte (slotValue w)) s) := by
  obtain ⟨hle, hne⟩ := classOf_emit_iff.mp hv
  exact exec_of_byteOfInstr (byteOfInstr_decodeSlot hle hne) s

theorem exec_of_node {w : SlotWord} (hv : classOf (slotValue w) = .node) (s : State) :
    exec (decodeSlot w) s = .next (tail (acted (targetNode (slotValue w)) s.destPos s.dst s)) := by
  obtain ⟨hpos, hle⟩ := classOf_node_iff.mp hv
  have hlow : slotLow w = targetNode (slotValue w) := by
    have hvalue := slotLow_value w
    apply BitVec.eq_of_toNat_eq
    rw [targetNode, BitVec.toNat_ofInt]
    omega
  rw [decodeSlot_node hpos hle, hlow]
  rfl

end Sys2Proof.Machine

namespace Sys2Proof

open Sys2Proof.Machine

/-! ## A running call against `Decompress` (R130) -/

/-- What `Decompress` takes besides its cursor, as the registers of a running call hold it. -/
def inputOf (s : State) : CallInput :=
  { rom := s.rom, src := s.src, dstSize := s.dstSize, dstOff := s.dstOff, endPos := s.endPos }

/-- The local variables of `Decompress`, as the cursor registers hold them. -/
def cursorOf (s : State) : CallCursor :=
  { node := s.node, bitNum := s.bitnum.toNat, destPos := s.destPos, srcOff := s.srcOff, dst := s.dst }

theorem bit_cursorOf (s : State) : (cursorOf s).bit (inputOf s) = sourceBit s :=
  CallCursor.bit_eq _ _

/-- The two advances of the bit position are one (R104). -/
theorem cursorOf_advanceBit {s : State} (hpos : 1 ≤ s.bitnum.toNat) :
    cursorOf (advanceBit s) = (cursorOf s).advance := by
  unfold CallCursor.advance
  rcases advanceBit_cases s with ⟨h1, h⟩ | ⟨hne, h⟩
  · rw [if_pos (by simp [cursorOf, h1]), h]
    rfl
  · have hne' : s.bitnum.toNat ≠ 1 := fun h1 => hne (BitVec.eq_of_toNat_eq h1)
    have hgt : ¬ (cursorOf s).bitNum - 1 = 0 := by
      change ¬ s.bitnum.toNat - 1 = 0
      omega
    rw [if_neg hgt, h]
    simp only [cursorOf, bitnum_pred_toNat hpos]

/-- `t` is a state of a call whose result is `r`: while the call runs, `Decompress` goes on from its registers to `r`, and
once it has ended its registers and bytes are those of `r`. -/
structure Simulates (r : CallResult) (t : State) : Prop where
  running : t.state = .busy →
    t.success = false ∧ t.faultCode = .none ∧ decompressLoop (inputOf t) (bitsLeft t) (cursorOf t) = r
  ended : Ended t → Leaves t r

theorem simulates_of_leaves {r : CallResult} {t : State} (h : Ended t) (hl : Leaves t r) : Simulates r t :=
  ⟨fun hb => absurd hb h.ne_busy, fun _ => hl⟩

/-- The tail of a bit step and the end of a turn of the loop agree (R104). -/
theorem simulates_tail {s : State} (hs : Running s) (hsuccess : s.success = false) (hfault : s.faultCode = .none)
    {k : Nat} (hk : bitsLeft s = k + 1) (n : NodeId) (p : Nat) (d : List Host.Cell) :
    Simulates (loopTail (inputOf s) k (cursorOf (acted n p d s))) (tail (acted n p d s)) := by
  have hadv : cursorOf (advanceBit (acted n p d s)) = (cursorOf (acted n p d s)).advance :=
    cursorOf_advanceBit hs.inv.bitnumPos
  have htaken : bitStepsTaken (advanceBit (acted n p d s)) = bitStepsTaken s + 1 :=
    bitStepsTaken_advanceBit (s := acted n p d s) hs.inv.bitnumPos hs.inv.bitnumLe hs.inv.startLe
  have hleft : bitsLeft (advanceBit (acted n p d s)) = k := by
    simp only [bitsLeft, htaken, advanceBit_srcLen, acted_srcLen] at hk ⊢
    omega
  rw [loopTail, ← hadv]
  rcases tail_cases (acted n p d s) with ⟨hend, h⟩ | ⟨hgo, h⟩
  · have hend' : (cursorOf (advanceBit (acted n p d s))).srcOff = (inputOf s).endPos := hend
    rw [h, if_pos hend']
    exact simulates_of_leaves (.inl rfl) ⟨rfl, rfl, by simpa using hfault, rfl, rfl, by simp [cursorOf]⟩
  · have hgo' : (cursorOf (advanceBit (acted n p d s))).srcOff ≠ (inputOf s).endPos := hgo
    rw [h, if_neg hgo']
    refine ⟨fun _ => ⟨by simpa using hsuccess, by simpa using hfault, ?_⟩,
      fun he => absurd (by simp [hs.busy]) he.ne_busy⟩
    rw [hleft]
    congr 1
    simp [inputOf]

/-- A bit step does what a turn of the loop does, in each of the classes of its slot (R130). -/
theorem simulates_walk {r : CallResult} {u v : State} (hu : Running u) (hP : Simulates r u) (h : walk u = .next v) :
    Simulates r v := by
  obtain ⟨hsuccess, hfault, rfl⟩ := hP.running hu.busy
  obtain ⟨k, hk⟩ : ∃ k, bitsLeft u = k + 1 := Nat.exists_eq_succ_of_ne_zero (by
    have := bitStepsTaken_lt hu.inv
    rw [bitsLeft]
    omega)
  have hin : (cursorOf u).srcOff < (inputOf u).endPos := hu.inv.guard
  have hvalue : tableNext (inputOf u).rom (cursorOf u).node ((cursorOf u).bit (inputOf u)) =
      slotValue (romWord u.rom u.node (sourceBit u)) := by
    rw [bit_cursorOf]
    rfl
  rw [walk_eq_exec hu.busy (hu.inv.guard.trans_le hu.inv.inSpan) hu.inv.bitnumPos hu.inv.bitnumLe] at h
  rw [hk]
  cases hc : classOf (slotValue (romWord u.rom u.node (sourceBit u))) with
  | endMessage =>
    rw [decompressLoop_end k hin (hvalue ▸ hc)]
    cases (exec_of_end hc u).symm.trans h
    exact simulates_of_leaves (.inl rfl) ⟨rfl, rfl, hfault, rfl, rfl, rfl⟩
  | emit =>
    cases (exec_of_emit hc u).symm.trans h
    rcases Nat.lt_or_ge u.destPos u.dstSize with hroom | hfull
    · rw [decompressLoop_emit k hin (hvalue ▸ hc) hroom, emitByte_of_room _ hroom, hvalue]
      exact simulates_tail hu hsuccess hfault hk _ _ _
    · rw [decompressLoop_full k hin (hvalue ▸ hc) hfull, emitByte_of_full _ hfull]
      exact simulates_of_leaves (.inr rfl) ⟨rfl, hsuccess, rfl, hu.inv.noBytes, rfl, rfl⟩
  | node =>
    cases (exec_of_node hc u).symm.trans h
    rw [decompressLoop_node k hin (hvalue ▸ hc), hvalue]
    exact simulates_tail hu hsuccess hfault hk _ _ _
  | rsvd =>
    have hrange := (wfRange_of_romInRange (configRefusal_none_iff.mp hu.config).1 u.node (sourceBit u)).2
    exact absurd (classOf_rsvd_iff.mp hc) (not_le.mpr (Int.lt_add_one_of_le hrange))

/-- The `START` step does what `Decompress` does before its loop (R101, R130). -/
theorem simulates_beginCall (s : State) : Simulates (decompressOf s) (beginCall { s with inputs := [] }) := by
  unfold decompressOf decompress
  rcases beginCall_cases { s with inputs := [] } with ⟨hlt, h⟩ | ⟨hsrc, hlt, h⟩ | ⟨hsrc, hdst, hlen, h⟩ |
    ⟨hsrc, hdst, hlen, h⟩ <;> rw [h]
  · rw [if_pos hlt]
    exact simulates_of_leaves (.inr rfl) ⟨rfl, rfl, rfl, rfl, rfl, rfl⟩
  · rw [if_neg (not_lt.mpr hsrc), if_pos hlt]
    exact simulates_of_leaves (.inr rfl) ⟨rfl, rfl, rfl, rfl, rfl, rfl⟩
  · rw [if_neg (not_lt.mpr hsrc), if_neg (not_lt.mpr hdst), hlen]
    exact simulates_of_leaves (.inl rfl) ⟨rfl, rfl, rfl, rfl, rfl, rfl⟩
  · rw [if_neg (not_lt.mpr hsrc), if_neg (not_lt.mpr hdst)]
    refine ⟨fun _ => ⟨rfl, rfl, ?_⟩, fun he => absurd rfl he.ne_busy⟩
    simp [bitsLeft, bitStepsTaken, callStart, inputOf, cursorOf]

/-- Settles O48: the simulation holds after the `START` step and every bit step keeps it. -/
theorem callAgreesWithDecompress : Obligations.CallAgreesWithDecompress := by
  intro s _ hr
  obtain ⟨k, t, hends, ht⟩ := call_ends_with hr (simulates_beginCall s) fun _ _ => simulates_walk
  exact ⟨k, t, hends, ht.ended hends.ended⟩

end Sys2Proof

namespace Sys2Proof.Machine

/-! ## `Decompress` as a function of the bits of its window (R141 to R144)

SUPPORT. The walk of a list of bits, without `SRC`, `DST` or any offset: the bytes it emits, how it ends and how many bits
it has used before. `decompress_eq_result` ties it to `Decompress`; what R141 to R144 say of calls is then about lists of
bits. -/

/-! ### Storing a list of bytes -/

/-- `DST` after the bytes are stored one after the other from `pos` on. -/
def storeBytes (dst : List Host.Cell) (pos : Nat) : List Byte → List Host.Cell
  | [] => dst
  | b :: bytes => storeBytes (Memory.write Config.unlistedByte dst pos b) (pos + 1) bytes

@[simp] theorem storeBytes_nil (dst : List Host.Cell) (pos : Nat) : storeBytes dst pos [] = dst := rfl

@[simp] theorem storeBytes_cons (dst : List Host.Cell) (pos : Nat) (b : Byte) (bytes : List Byte) :
    storeBytes dst pos (b :: bytes) = storeBytes (Memory.write Config.unlistedByte dst pos b) (pos + 1) bytes := rfl

theorem storeBytes_append (dst : List Host.Cell) (pos : Nat) (bytes more : List Byte) :
    storeBytes dst pos (bytes ++ more) = storeBytes (storeBytes dst pos bytes) (pos + bytes.length) more := by
  induction bytes generalizing dst pos with
  | nil => rfl
  | cons b bytes ih => simp only [List.cons_append, storeBytes_cons, ih, List.length_cons, Nat.add_assoc, Nat.add_comm 1]

theorem read_storeBytes_outside (dst : List Host.Cell) {pos a : Nat} {bytes : List Byte}
    (h : a < pos ∨ pos + bytes.length ≤ a) :
    Memory.read Config.unlistedByte (storeBytes dst pos bytes) a = Memory.read Config.unlistedByte dst a := by
  induction bytes generalizing dst pos with
  | nil => rfl
  | cons b bytes ih =>
    rw [List.length_cons] at h
    rw [storeBytes_cons, ih _ (by omega), read_write_other b (by omega)]

theorem read_storeBytes_inside {dst : List Host.Cell} (hd : Memory.wf Config.unlistedByte dst = true) {pos j : Nat}
    {bytes : List Byte} (hj : j < bytes.length) :
    Memory.read Config.unlistedByte (storeBytes dst pos bytes) (pos + j) = bytes[j] := by
  induction bytes generalizing dst pos j with
  | nil => exact absurd hj (Nat.not_lt_zero j)
  | cons b bytes ih =>
    rw [storeBytes_cons]
    cases j with
    | zero =>
      rw [read_storeBytes_outside _ (.inl (by omega))]
      exact read_write_same b hd
    | succ j =>
      rw [← Nat.add_assoc, Nat.add_right_comm]
      exact ih (wf_write pos b hd) (Nat.lt_of_succ_lt_succ hj)

/-- The same bytes stored over two memories: a byte is the same in both, or untouched in both. -/
theorem read_storeBytes_same_or_untouched {dst dst' : List Host.Cell} (hd : Memory.wf Config.unlistedByte dst = true)
    (hd' : Memory.wf Config.unlistedByte dst' = true) (pos : Nat) (bytes : List Byte) (a : Nat) :
    Memory.read Config.unlistedByte (storeBytes dst' pos bytes) a =
        Memory.read Config.unlistedByte (storeBytes dst pos bytes) a ∨
      Memory.read Config.unlistedByte (storeBytes dst' pos bytes) a = Memory.read Config.unlistedByte dst' a ∧
        Memory.read Config.unlistedByte (storeBytes dst pos bytes) a = Memory.read Config.unlistedByte dst a := by
  by_cases ha : a < pos ∨ pos + bytes.length ≤ a
  · exact .inr ⟨read_storeBytes_outside dst' ha, read_storeBytes_outside dst ha⟩
  · obtain ⟨j, rfl⟩ := Nat.exists_eq_add_of_le (show pos ≤ a by omega)
    have hj : j < bytes.length := by omega
    exact .inl ((read_storeBytes_inside hd' hj).trans (read_storeBytes_inside hd hj).symm)

/-! ### The walk of a list of bits -/

/-- How the walk of a list of bits ends. -/
inductive Ending where
  /-- At the sentinel (R105). -/
  | complete
  /-- With the last bit (R104). -/
  | incomplete
  /-- At a byte without room (R155). -/
  | overflow
  /-- At a slot of class `RSVD` (R66). -/
  | outsideRange

/-- What the walk of a list of bits gives. -/
structure Decoded where
  /-- The bytes emitted, in order. -/
  bytes : List Byte
  ending : Ending
  /-- The number of bits taken before the one that ends the walk; where none does, of all bits. -/
  used : Nat

/-- What is decoded after `used` bits that gave `bytes`. -/
def Decoded.after (d : Decoded) (bytes : List Byte) (used : Nat) : Decoded :=
  { d with bytes := bytes ++ d.bytes, used := used + d.used }

@[simp] theorem Decoded.after_bytes (d : Decoded) (bytes : List Byte) (k : Nat) :
    (d.after bytes k).bytes = bytes ++ d.bytes := rfl
@[simp] theorem Decoded.after_ending (d : Decoded) (bytes : List Byte) (k : Nat) :
    (d.after bytes k).ending = d.ending := rfl
@[simp] theorem Decoded.after_used (d : Decoded) (bytes : List Byte) (k : Nat) :
    (d.after bytes k).used = k + d.used := rfl

theorem Decoded.after_after (d : Decoded) (bytes more : List Byte) (k j : Nat) :
    (d.after more j).after bytes k = d.after (bytes ++ more) (k + j) := by
  simp [Decoded.after, Nat.add_assoc]

@[simp] theorem Decoded.after_nil (d : Decoded) : d.after [] 0 = d := by
  simp [Decoded.after]

/-- The walk of a list of bits from node `n`, with room for `room` bytes (R72, R105 to R107). -/
def decodeBits (rom : List (Nat × SlotWord)) : Nat → NodeId → List Bool → Decoded
  | _, _, [] => ⟨[], .incomplete, 0⟩
  | room, n, b :: bits =>
    match classOf (tableNext rom n b), room with
    | .endMessage, _ => ⟨[], .complete, 0⟩
    | .emit, 0 => ⟨[], .overflow, 0⟩
    | .emit, room + 1 => (decodeBits rom room 0 bits).after [emittedByte (tableNext rom n b)] 1
    | .node, room => (decodeBits rom room (targetNode (tableNext rom n b)) bits).after [] 1
    | .rsvd, _ => ⟨[], .outsideRange, 0⟩

section Walk

variable {rom : List (Nat × SlotWord)} {room : Nat} {n : NodeId} {b : Bool} {bits : List Bool}

@[simp] theorem decodeBits_nil : decodeBits rom room n [] = ⟨[], .incomplete, 0⟩ := rfl

theorem decodeBits_end (hv : classOf (tableNext rom n b) = .endMessage) :
    decodeBits rom room n (b :: bits) = ⟨[], .complete, 0⟩ := by
  simp [decodeBits, hv]

theorem decodeBits_full (hv : classOf (tableNext rom n b) = .emit) :
    decodeBits rom 0 n (b :: bits) = ⟨[], .overflow, 0⟩ := by
  simp [decodeBits, hv]

theorem decodeBits_emit (hv : classOf (tableNext rom n b) = .emit) :
    decodeBits rom (room + 1) n (b :: bits) = (decodeBits rom room 0 bits).after [emittedByte (tableNext rom n b)] 1 := by
  simp [decodeBits, hv]

theorem decodeBits_node (hv : classOf (tableNext rom n b) = .node) :
    decodeBits rom room n (b :: bits) = (decodeBits rom room (targetNode (tableNext rom n b)) bits).after [] 1 := by
  simp [decodeBits, hv]

theorem decodeBits_rsvd (hv : classOf (tableNext rom n b) = .rsvd) :
    decodeBits rom room n (b :: bits) = ⟨[], .outsideRange, 0⟩ := by
  simp [decodeBits, hv]

end Walk

/-- A walk that has not overflowed is the same with more room. -/
theorem decodeBits_of_more_room {rom : List (Nat × SlotWord)} {room room' : Nat} {n : NodeId} {bits : List Bool}
    (hroom : room ≤ room') (h : (decodeBits rom room n bits).ending ≠ .overflow) :
    decodeBits rom room' n bits = decodeBits rom room n bits := by
  induction bits generalizing room room' n with
  | nil => rfl
  | cons b bits ih =>
    cases hv : classOf (tableNext rom n b) with
    | endMessage => rw [decodeBits_end hv, decodeBits_end hv]
    | emit =>
      cases room with
      | zero => exact absurd (by rw [decodeBits_full hv]) h
      | succ room =>
        obtain ⟨room', rfl⟩ := Nat.exists_eq_add_of_le' (Nat.le_of_add_left_le hroom)
        rw [decodeBits_emit hv] at h ⊢
        rw [decodeBits_emit hv, ih (by omega) h]
    | node =>
      rw [decodeBits_node hv] at h ⊢
      rw [decodeBits_node hv, ih hroom h]
    | rsvd => rw [decodeBits_rsvd hv, decodeBits_rsvd hv]

/-- `e` is what the walk of `len` bits, which gives `d`, gives with the bits `more` after them: the walk ends inside the
first bits, or it takes all of them and goes on with the rest. -/
def ContinuesTo (rom : List (Nat × SlotWord)) (more : List Bool) (len : Nat) (d e : Decoded) : Prop :=
  (d.ending ≠ .incomplete ∧ d.used < len ∧ e = d) ∨
    (d.ending = .incomplete ∧ d.used = len ∧
      ∃ room n, e = (decodeBits rom room n more).after d.bytes len)

theorem ContinuesTo.after {rom : List (Nat × SlotWord)} {more : List Bool} {len : Nat} {d e : Decoded}
    (h : ContinuesTo rom more len d e) (bytes : List Byte) :
    ContinuesTo rom more (len + 1) (d.after bytes 1) (e.after bytes 1) := by
  rcases h with ⟨hd, hlt, rfl⟩ | ⟨hd, heq, room, n, rfl⟩
  · exact .inl ⟨hd, by rw [Decoded.after_used]; omega, rfl⟩
  · refine .inr ⟨hd, by rw [Decoded.after_used]; omega, room, n, ?_⟩
    rw [Decoded.after_after, Decoded.after_bytes, Nat.add_comm]

/-- The walk of a longer list of bits. -/
theorem decodeBits_append (rom : List (Nat × SlotWord)) (room : Nat) (n : NodeId) (bits more : List Bool) :
    ContinuesTo rom more bits.length (decodeBits rom room n bits) (decodeBits rom room n (bits ++ more)) := by
  induction bits generalizing room n with
  | nil => exact .inr ⟨rfl, rfl, room, n, by simp⟩
  | cons b bits ih =>
    rw [List.cons_append, List.length_cons]
    cases hv : classOf (tableNext rom n b) with
    | endMessage =>
      rw [decodeBits_end hv, decodeBits_end hv]
      exact .inl ⟨by simp, Nat.succ_pos _, rfl⟩
    | emit =>
      cases room with
      | zero =>
        rw [decodeBits_full hv, decodeBits_full hv]
        exact .inl ⟨by simp, Nat.succ_pos _, rfl⟩
      | succ room =>
        rw [decodeBits_emit hv, decodeBits_emit hv]
        exact (ih room 0).after _
    | node =>
      rw [decodeBits_node hv, decodeBits_node hv]
      exact (ih room _).after _
    | rsvd =>
      rw [decodeBits_rsvd hv, decodeBits_rsvd hv]
      exact .inl ⟨by simp, Nat.succ_pos _, rfl⟩

/-- Bits after the sentinel's codeword change nothing. -/
theorem decodeBits_append_of_complete {rom : List (Nat × SlotWord)} {room : Nat} {n : NodeId} {bits : List Bool}
    (h : (decodeBits rom room n bits).ending = .complete) (more : List Bool) :
    decodeBits rom room n (bits ++ more) = decodeBits rom room n bits := by
  rcases decodeBits_append rom room n bits more with ⟨_, _, heq⟩ | ⟨hinc, _⟩
  · exact heq
  · exact absurd (h.symm.trans hinc) (by simp)

/-- A walk that has used fewer bits than the first part ends there. -/
theorem decodeBits_of_used_lt {rom : List (Nat × SlotWord)} {room : Nat} {n : NodeId} {bits more : List Bool}
    (h : (decodeBits rom room n (bits ++ more)).used < bits.length) :
    decodeBits rom room n bits = decodeBits rom room n (bits ++ more) := by
  rcases decodeBits_append rom room n bits more with ⟨_, _, heq⟩ | ⟨_, _, room', n', heq⟩
  · exact heq.symm
  · rw [heq, Decoded.after_used] at h
    omega

/-- A walk that has used the first part is incomplete with it, having emitted a beginning of the bytes. -/
theorem decodeBits_of_le_used {rom : List (Nat × SlotWord)} {room : Nat} {n : NodeId} {bits more : List Bool}
    (h : bits.length ≤ (decodeBits rom room n (bits ++ more)).used) :
    (decodeBits rom room n bits).ending = .incomplete ∧ (decodeBits rom room n bits).used = bits.length ∧
      (decodeBits rom room n bits).bytes <+: (decodeBits rom room n (bits ++ more)).bytes := by
  rcases decodeBits_append rom room n bits more with ⟨_, hlt, heq⟩ | ⟨hinc, hused, room', n', heq⟩
  · rw [heq] at h
    omega
  · exact ⟨hinc, hused, by rw [heq]; exact List.prefix_append _ _⟩

/-- A complete walk has used fewer bits than it has. -/
theorem used_lt_of_complete {rom : List (Nat × SlotWord)} {room : Nat} {n : NodeId} {bits : List Bool}
    (h : (decodeBits rom room n bits).ending = .complete) : (decodeBits rom room n bits).used < bits.length := by
  rcases decodeBits_append rom room n bits [] with ⟨_, hlt, _⟩ | ⟨hinc, _⟩
  · exact hlt
  · exact absurd (h.symm.trans hinc) (by simp)

/-! ### Codewords and messages (R72) -/

/-- The codeword of a byte, from any node: the byte, and the walk goes on from the root. -/
theorem decodeBits_codeword {rom : List (Nat × SlotWord)} (room : Nat) {n : NodeId} {bits : List Bool} (more : List Bool)
    {v : Int} (hleaf : leafOf rom n bits = some v) (hv : classOf v = .emit) :
    decodeBits rom (room + 1) n (bits ++ more) = (decodeBits rom room 0 more).after [emittedByte v] bits.length := by
  induction bits generalizing n with
  | nil => cases hleaf
  | cons b bits ih =>
    rw [List.cons_append, List.length_cons]
    by_cases hc : classOf (tableNext rom n b) = .node
    · rw [leafOf_cons_node _ hc] at hleaf
      rw [decodeBits_node hc, ih hleaf, Decoded.after_after, Nat.add_comm 1, List.nil_append]
    · obtain ⟨rfl, rfl⟩ := (leafOf_cons_leaf hc).mp hleaf
      rw [List.nil_append, decodeBits_emit hv, List.length_nil]

/-- The sentinel's codeword, from any node: its last bit completes the walk. -/
theorem decodeBits_sentinel {rom : List (Nat × SlotWord)} (room : Nat) {n : NodeId} {bits : List Bool} (more : List Bool)
    (hleaf : leafOf rom n bits = some Config.sentinelEnd) :
    ∃ k, bits.length = k + 1 ∧ decodeBits rom room n (bits ++ more) = ⟨[], .complete, k⟩ := by
  induction bits generalizing n with
  | nil => cases hleaf
  | cons b bits ih =>
    rw [List.cons_append, List.length_cons]
    by_cases hc : classOf (tableNext rom n b) = .node
    · rw [leafOf_cons_node _ hc] at hleaf
      obtain ⟨k, hk, hdecode⟩ := ih hleaf
      exact ⟨k + 1, by rw [hk], by rw [decodeBits_node hc, hdecode]; simp [Decoded.after, Nat.add_comm]⟩
    · obtain ⟨rfl, hv⟩ := (leafOf_cons_leaf hc).mp hleaf
      exact ⟨0, rfl, decodeBits_end (classOf_end_iff.mpr hv)⟩

/-- The codewords of some bytes, with room for them: the bytes, and the walk goes on from the root. -/
theorem decodeBits_codewords {rom : List (Nat × SlotWord)} {codewords : List (List Bool)} {bytes : List Byte}
    (h : List.Forall₂ (IsByteCodeword rom) codewords bytes) (room : Nat) (more : List Bool) :
    decodeBits rom (room + bytes.length) 0 (codewords.flatten ++ more) =
      (decodeBits rom room 0 more).after bytes codewords.flatten.length := by
  induction h with
  | nil => simp
  | @cons bits x codewords bytes hx _ ih =>
    obtain ⟨v, hleaf, hv, rfl⟩ := hx
    rw [List.flatten_cons, List.append_assoc, List.length_cons, ← Nat.add_assoc, decodeBits_codeword _ _ hleaf hv, ih,
      Decoded.after_after, List.length_append, List.singleton_append]

/-- A message with room for its bytes: the walk is complete with the last bit of the sentinel's codeword. -/
theorem decodeBits_message {rom : List (Nat × SlotWord)} {codewords : List (List Bool)} {bytes : List Byte}
    {sentinel : List Bool} (h : List.Forall₂ (IsByteCodeword rom) codewords bytes) (hend : IsEndCodeword rom sentinel)
    (room : Nat) (more : List Bool) :
    ∃ k, (messageBits codewords sentinel).length = k + 1 ∧
      decodeBits rom (room + bytes.length) 0 (messageBits codewords sentinel ++ more) = ⟨bytes, .complete, k⟩ := by
  obtain ⟨k, hk, hdecode⟩ := decodeBits_sentinel room more hend
  refine ⟨codewords.flatten.length + k, ?_, ?_⟩
  · rw [messageBits, List.length_append, hk, Nat.add_assoc]
  · rw [messageBits, List.append_assoc, decodeBits_codewords h, hdecode]
    simp [Decoded.after]

/-! ### The bits of `SRC` by their addresses -/

/-- Bit `p` of `SRC`, counted from the most significant bit of its first byte (R40). -/
def srcBit (src : List Host.Cell) (p : Nat) : Bool :=
  (Memory.read Config.unlistedByte src (p / 8)).getLsbD (7 - p % 8)

/-- The `k` bits of `SRC` from bit `p` on. -/
def bitsFrom (src : List Host.Cell) (p : Nat) : Nat → List Bool
  | 0 => []
  | k + 1 => srcBit src p :: bitsFrom src (p + 1) k

theorem bitsFrom_byte (src : List Host.Cell) (off k : Nat) :
    bitsFrom src (8 * off) (k + 8) =
      bitsOfByte (Memory.read Config.unlistedByte src off) ++ bitsFrom src (8 * off + 8) k := by
  have hbit (i : Nat) (hi : i < 8) :
      srcBit src (8 * off + i) = (Memory.read Config.unlistedByte src off).getLsbD (7 - i) := by
    rw [srcBit, show (8 * off + i) / 8 = off by omega, show (8 * off + i) % 8 = i by omega]
  have hfirst := hbit 0 (by decide)
  simp only [Nat.add_zero, Nat.sub_zero] at hfirst
  simp [bitsFrom, bitsOfByte, Nat.add_assoc, hbit, hfirst]

theorem windowBits_eq_bitsFrom (src : List Host.Cell) (off len : Nat) :
    windowBits src off len = bitsFrom src (8 * off) (8 * len) := by
  induction len generalizing off with
  | zero => rfl
  | succ len ih => rw [windowBits, ih, Nat.mul_succ, Nat.mul_succ, bitsFrom_byte]

@[simp] theorem length_windowBits (src : List Host.Cell) (off len : Nat) : (windowBits src off len).length = 8 * len := by
  induction len generalizing off with
  | zero => rfl
  | succ len ih => rw [windowBits, List.length_append, ih, Nat.mul_succ, Nat.add_comm]; rfl

theorem windowBits_append (src : List Host.Cell) (off len more : Nat) :
    windowBits src off (len + more) = windowBits src off len ++ windowBits src (off + len) more := by
  induction len generalizing off with
  | zero => rw [Nat.zero_add]; rfl
  | succ len ih =>
    rw [Nat.add_right_comm, windowBits, ih, windowBits, List.append_assoc, Nat.add_right_comm, Nat.add_assoc off]

/-- Windows of the same bytes have the same bits, wherever they stand. -/
theorem windowBits_congr {src src' : List Host.Cell} {off off' len : Nat}
    (h : ∀ j, j < len → Memory.read Config.unlistedByte src' (off' + j) = Memory.read Config.unlistedByte src (off + j)) :
    windowBits src' off' len = windowBits src off len := by
  induction len generalizing off off' with
  | zero => rfl
  | succ len ih =>
    have hrest : windowBits src' (off' + 1) len = windowBits src (off + 1) len :=
      ih fun j hj => by simpa only [Nat.add_assoc, Nat.add_comm 1] using h (j + 1) (Nat.succ_lt_succ hj)
    have hfirst := h 0 (Nat.succ_pos len)
    rw [Nat.add_zero, Nat.add_zero] at hfirst
    rw [windowBits, windowBits, hrest, hfirst]

/-! ### `Decompress` from the bits -/

/-- The cursor of `Decompress` at bit `p` of `SRC`. -/
def cursorAt (p : Nat) (n : NodeId) (pos : Nat) (dst : List Host.Cell) : CallCursor :=
  { node := n, bitNum := 8 - p % 8, destPos := pos, srcOff := p / 8, dst := dst }

theorem bit_cursorAt (x : CallInput) (p : Nat) (n : NodeId) (pos : Nat) (dst : List Host.Cell) :
    (cursorAt p n pos dst).bit x = srcBit x.src p := by
  have hbit : 8 - p % 8 - 1 = 7 - p % 8 := by omega
  rw [CallCursor.bit_eq, srcBit, ← hbit]
  rfl

theorem advance_cursorAt (p : Nat) (n : NodeId) (pos : Nat) (dst : List Host.Cell) :
    (cursorAt p n pos dst).advance = cursorAt (p + 1) n pos dst := by
  have hbit : (cursorAt p n pos dst).bitNum = 8 - p % 8 := rfl
  by_cases h : p % 8 = 7
  · rw [CallCursor.advance, if_pos (by omega)]
    simp only [cursorAt, CallCursor.mk.injEq, true_and, and_true]
    omega
  · rw [CallCursor.advance, if_neg (by omega)]
    simp only [cursorAt, CallCursor.mk.injEq, true_and, and_true]
    omega

/-- The result of a call at bit `p` of `SRC` and at index `pos` of `DST`, whose remaining bits give `d`. -/
def Decoded.result (d : Decoded) (dstOff p pos : Nat) (dst : List Host.Cell) : CallResult :=
  match d.ending with
  | .complete => .done true (pos + d.bytes.length - dstOff) ((p + d.used) / 8 + 1) (storeBytes dst pos d.bytes)
  | .incomplete => .done false (pos + d.bytes.length - dstOff) ((p + d.used) / 8) (storeBytes dst pos d.bytes)
  | .overflow => .fault .dstOverflow ((p + d.used) / 8) (storeBytes dst pos d.bytes)
  | .outsideRange => .outsideRange

/-- The result of a walk that goes on is the result from the place where it goes on. -/
theorem Decoded.result_after (d : Decoded) (bytes : List Byte) (k dstOff p pos : Nat) (dst : List Host.Cell) :
    (d.after bytes k).result dstOff p pos dst =
      d.result dstOff (p + k) (pos + bytes.length) (storeBytes dst pos bytes) := by
  simp only [Decoded.result, Decoded.after_ending, Decoded.after_bytes, Decoded.after_used, List.length_append,
    storeBytes_append, Nat.add_assoc]

/-- A turn of the loop takes one bit of the walk, if the rest of the loop takes the rest of it. -/
theorem decompressLoop_turn {x : CallInput} {k p : Nat} (hp : p + (k + 1) = 8 * x.endPos)
    (htail : ∀ n pos dst, pos ≤ x.dstSize → loopTail x k (cursorAt p n pos dst) =
      (decodeBits x.rom (x.dstSize - pos) n (bitsFrom x.src (p + 1) k)).result x.dstOff (p + 1) pos dst)
    (n : NodeId) {pos : Nat} (dst : List Host.Cell) (hpos : pos ≤ x.dstSize) :
    decompressLoop x (k + 1) (cursorAt p n pos dst) =
      (decodeBits x.rom (x.dstSize - pos) n (bitsFrom x.src p (k + 1))).result x.dstOff p pos dst := by
  have hin : (cursorAt p n pos dst).srcOff < x.endPos := by
    change p / 8 < x.endPos
    omega
  have hbit := bit_cursorAt x p n pos dst
  rw [bitsFrom]
  cases hv : classOf (tableNext x.rom n (srcBit x.src p)) with
  | endMessage =>
    rw [decompressLoop_end k hin (by rw [hbit]; exact hv), decodeBits_end hv]
    rfl
  | emit =>
    rcases Nat.lt_or_ge pos x.dstSize with hroom | hfull
    · have hsucc : x.dstSize - pos = x.dstSize - (pos + 1) + 1 := by omega
      rw [decompressLoop_emit k hin (by rw [hbit]; exact hv) hroom, hsucc, decodeBits_emit hv, Decoded.result_after, hbit]
      exact htail _ _ _ hroom
    · have hzero : x.dstSize - pos = 0 := by omega
      rw [decompressLoop_full k hin (by rw [hbit]; exact hv) hfull, hzero, decodeBits_full hv]
      rfl
  | node =>
    rw [decompressLoop_node k hin (by rw [hbit]; exact hv), decodeBits_node hv, Decoded.result_after, hbit]
    exact htail _ _ _ hpos
  | rsvd =>
    rw [decompressLoop_rsvd k hin (by rw [hbit]; exact hv), decodeBits_rsvd hv]
    rfl

/-- The loop of `Decompress` is the walk of the bits that are left, by induction on their number. -/
theorem decompressLoop_eq_result {x : CallInput} {k p : Nat} (hp : p + (k + 1) = 8 * x.endPos) (n : NodeId) {pos : Nat}
    (dst : List Host.Cell) (hpos : pos ≤ x.dstSize) :
    decompressLoop x (k + 1) (cursorAt p n pos dst) =
      (decodeBits x.rom (x.dstSize - pos) n (bitsFrom x.src p (k + 1))).result x.dstOff p pos dst := by
  induction k generalizing p n pos dst with
  | zero =>
    refine decompressLoop_turn hp (fun n pos dst _ => ?_) n dst hpos
    rw [loopTail, advance_cursorAt, if_pos (by change (p + 1) / 8 = x.endPos; omega)]
    rfl
  | succ k ih =>
    refine decompressLoop_turn hp (fun n pos dst hpos => ?_) n dst hpos
    rw [loopTail, advance_cursorAt, if_neg (by change (p + 1) / 8 ≠ x.endPos; omega)]
    exact ih (by omega) n dst hpos

/-- With the window and the output inside their spans, a call is the walk of the bits of its window (R130). -/
theorem decompress_eq_result (rom : List (Nat × SlotWord)) (src dst : List Host.Cell) {srcSize off len dstSize doff : Nat}
    (hsrc : off + len ≤ srcSize) (hdst : doff ≤ dstSize) :
    decompress rom src srcSize off len dst dstSize doff =
      (decodeBits rom (dstSize - doff) 0 (windowBits src off len)).result doff (8 * off) doff dst := by
  rw [decompress, if_neg (not_lt.mpr hsrc), if_neg (not_lt.mpr hdst)]
  cases len with
  | zero => simp [decompressLoop, windowBits, Decoded.result]
  | succ len =>
    have hcursor : (⟨0, 8, doff, off, dst⟩ : CallCursor) = cursorAt (8 * off) 0 doff dst := by
      simp [cursorAt]
    rw [hcursor, windowBits_eq_bitsFrom]
    exact decompressLoop_eq_result (x := ⟨rom, src, dstSize, doff, off + (len + 1)⟩) (k := 8 * len + 7)
      (by simp only; omega) 0 dst hdst

/-- How a call with the success flag `ok` has ended. -/
def endingOf : Bool → Ending
  | true => .complete
  | false => .incomplete

theorem endingOf_ne_overflow (ok : Bool) : endingOf ok ≠ .overflow := by
  cases ok <;> simp [endingOf]

theorem endingOf_inj : ∀ {ok ok' : Bool}, endingOf ok = endingOf ok' → ok = ok'
  | true, true, _ => rfl
  | false, false, _ => rfl

/-- The source bytes a walk has consumed, the sentinel's byte whole (R105, R134). -/
def Decoded.consumed (d : Decoded) : Nat :=
  match d.ending with
  | .complete => d.used / 8 + 1
  | .incomplete | .overflow | .outsideRange => d.used / 8

/-- The result of a whole call that has ended with a decode outcome. -/
theorem Decoded.result_of_ending {d : Decoded} {ok : Bool} (h : d.ending = endingOf ok) (off doff : Nat)
    (dst : List Host.Cell) :
    d.result doff (8 * off) doff dst = .done ok d.bytes.length (off + d.consumed) (storeBytes dst doff d.bytes) := by
  obtain ⟨bytes, ending, used⟩ := d
  obtain rfl : ending = endingOf ok := h
  cases ok <;> simp only [Decoded.result, Decoded.consumed, endingOf, CallResult.done.injEq] <;>
    exact ⟨trivial, by omega, by omega, trivial⟩

/-- A call that ends with a decode outcome has its window and its output inside their spans, and its outcome is that of
the walk. -/
theorem decompress_done {rom : List (Nat × SlotWord)} {src dst dst1 : List Host.Cell}
    {srcSize off len dstSize doff n srcOff : Nat} {ok : Bool}
    (h : decompress rom src srcSize off len dst dstSize doff = .done ok n srcOff dst1) :
    off + len ≤ srcSize ∧ doff ≤ dstSize ∧ ∃ d, d = decodeBits rom (dstSize - doff) 0 (windowBits src off len) ∧
      d.ending = endingOf ok ∧ n = d.bytes.length ∧ srcOff = off + d.consumed ∧ dst1 = storeBytes dst doff d.bytes := by
  have hsrc : off + len ≤ srcSize := by
    by_contra hlt
    rw [decompress, if_pos (not_le.mp hlt)] at h
    cases h
  have hdst : doff ≤ dstSize := by
    by_contra hlt
    rw [decompress, if_neg (not_lt.mpr hsrc), if_pos (not_le.mp hlt)] at h
    cases h
  rw [decompress_eq_result rom src dst hsrc hdst] at h
  refine ⟨hsrc, hdst, _, rfl, ?_⟩
  have hending : (decodeBits rom (dstSize - doff) 0 (windowBits src off len)).ending = endingOf ok := by
    unfold Decoded.result at h
    split at h <;> cases h <;> assumption
  rw [Decoded.result_of_ending hending] at h
  cases h
  exact ⟨hending, rfl, rfl, rfl⟩

/-- A complete call that consumes `m` bytes is the walk of the bits of those bytes alone. -/
theorem decompress_complete {rom : List (Nat × SlotWord)} {src dst dst1 : List Host.Cell}
    {srcSize off len dstSize doff n m : Nat}
    (h : decompress rom src srcSize off len dst dstSize doff = .done true n (off + m) dst1) :
    off + m ≤ srcSize ∧ doff ≤ dstSize ∧ ∃ d, decodeBits rom (dstSize - doff) 0 (windowBits src off m) = d ∧
      d.ending = .complete ∧ d.used / 8 + 1 = m ∧ n = d.bytes.length ∧ dst1 = storeBytes dst doff d.bytes := by
  obtain ⟨hsrc, hdst, d, hd, hending, hn, hm, hdst1⟩ := decompress_done h
  have hcomplete : d.ending = .complete := hending
  have hused : d.used / 8 + 1 = m := by
    simp only [Decoded.consumed, hcomplete] at hm
    omega
  have hlt : d.used < 8 * len := by
    have := used_lt_of_complete (hd ▸ hcomplete)
    rwa [← hd, length_windowBits] at this
  obtain ⟨more, rfl⟩ := Nat.exists_eq_add_of_le (show m ≤ len by omega)
  rw [windowBits_append] at hd
  have hmessage : decodeBits rom (dstSize - doff) 0 (windowBits src off m) = d := by
    rw [hd]
    exact decodeBits_of_used_lt (by rw [← hd, length_windowBits]; omega)
  exact ⟨by omega, hdst, d, hmessage, hcomplete, hused, hn, hdst1⟩

/-! ### What a call does with the bytes of `DST` it finds (R141) -/

/-- The result with other bytes of `DST`. -/
def CallResult.withDst : CallResult → List Host.Cell → CallResult
  | .done ok n srcOff _, dst => .done ok n srcOff dst
  | .fault code srcOff _, dst => .fault code srcOff dst
  | .outsideRange, _ => .outsideRange

/-- A call stores the same bytes over whatever `DST` holds, and the rest of its result does not depend on it. -/
theorem decompress_stores (rom : List (Nat × SlotWord)) (src : List Host.Cell) (srcSize off len dstSize doff : Nat) :
    ∃ (r : CallResult) (bytes : List Byte), ∀ dst,
      decompress rom src srcSize off len dst dstSize doff = r.withDst (storeBytes dst doff bytes) := by
  by_cases hsrc : srcSize < off + len
  · exact ⟨.fault .srcRange off [], [], fun dst => if_pos hsrc⟩
  by_cases hdst : dstSize < doff
  · exact ⟨.fault .dstRange off [], [], fun dst => (if_neg hsrc).trans (if_pos hdst)⟩
  obtain ⟨d, hd⟩ : ∃ d, decodeBits rom (dstSize - doff) 0 (windowBits src off len) = d := ⟨_, rfl⟩
  refine ⟨d.result doff (8 * off) doff [], d.bytes, fun dst => ?_⟩
  rw [decompress_eq_result rom src dst (not_lt.mp hsrc) (not_lt.mp hdst), hd]
  unfold Decoded.result
  split <;> rfl

/-- A call reads no byte of `SRC` outside its window. -/
theorem decompress_congr_src (rom : List (Nat × SlotWord)) {src src' : List Host.Cell} (srcSize : Nat) {off len : Nat}
    (dst : List Host.Cell) (dstSize doff : Nat)
    (h : ∀ a, off ≤ a → a < off + len → Memory.read Config.unlistedByte src' a = Memory.read Config.unlistedByte src a) :
    decompress rom src' srcSize off len dst dstSize doff = decompress rom src srcSize off len dst dstSize doff := by
  by_cases hsrc : srcSize < off + len
  · rw [decompress, if_pos hsrc, decompress, if_pos hsrc]
  by_cases hdst : dstSize < doff
  · rw [decompress, if_neg hsrc, if_pos hdst, decompress, if_neg hsrc, if_pos hdst]
  rw [decompress_eq_result rom src' dst (not_lt.mp hsrc) (not_lt.mp hdst),
    decompress_eq_result rom src dst (not_lt.mp hsrc) (not_lt.mp hdst),
    windowBits_congr fun j hj => h _ (Nat.le_add_right off j) (Nat.add_lt_add_left hj off)]

end Sys2Proof.Machine

namespace Sys2Proof

open Sys2Proof.Machine

/-! ## Calls and their inputs: the statements (R141 to R144) -/

/-- The registers after two calls whose results differ in the bytes of `DST` only. -/
theorem leaves_withDst_agree {t t' : State} {r : CallResult} {dst dst' : List Host.Cell} (h : Leaves t (r.withDst dst))
    (h' : Leaves t' (r.withDst dst')) :
    t'.state = t.state ∧ t'.success = t.success ∧ t'.faultCode = t.faultCode ∧ t'.bytesWritten = t.bytesWritten ∧
      t'.srcOff = t.srcOff ∧ t.dst = dst ∧ t'.dst = dst' := by
  cases r with
  | outsideRange => exact h.elim
  | done | fault =>
    obtain ⟨h1, h2, h3, h4, h5, h6⟩ := h
    obtain ⟨h1', h2', h3', h4', h5', h6'⟩ := h'
    exact ⟨h1'.trans h1.symm, h2'.trans h2.symm, h3'.trans h3.symm, h4'.trans h4.symm, h5'.trans h5.symm, h6, h6'⟩

/-- Settles O54: by O48 both calls leave what `Decompress` gives, which is one result with the same bytes stored over the
two contents of `DST`. -/
theorem callIsAPureFunctionOfItsInputs : Obligations.CallIsAPureFunctionOfItsInputs := by
  intro s s' hs hs' hr hr' hrom hoff hlen hdoff hsrc hdst hwindow
  obtain ⟨k, t, hends, hleaves⟩ := callAgreesWithDecompress s hs hr
  obtain ⟨k', t', hends', hleaves'⟩ := callAgreesWithDecompress s' hs' hr'
  obtain ⟨r, bytes, hresult⟩ := decompress_stores s.rom s.src s.srcSize s.srcOff s.srcLen s.dstSize s.dstOff
  rw [decompressOf, hresult] at hleaves
  rw [decompressOf, hrom, hoff, hlen, hdoff, hsrc, hdst, decompress_congr_src _ _ _ _ _ hwindow, hresult] at hleaves'
  obtain ⟨hst, hsuccess, hfault, hbytes, hend, hd, hd'⟩ := leaves_withDst_agree hleaves hleaves'
  refine ⟨k, k', t, t', hends, hends', hst, hsuccess, hfault, hbytes, hend, fun a => ?_⟩
  rw [readDst, readDst, hd, hd']
  exact read_storeBytes_same_or_untouched hs.spaces.dstWf hs'.spaces.dstWf s.dstOff bytes a

/-- Settles O55: two walks of the same bits without overflow are one walk, whichever has more room. -/
theorem callIsPositionIndependent : Obligations.CallIsPositionIndependent := by
  intro rom src src' dst dst' dst1 dst1' srcSize srcSize' off off' len dstSize dstSize' doff doff' n n' end1 end1' ok ok'
    hwf hwf' hwindow h h'
  obtain ⟨_, _, d, hd, hending, rfl, rfl, rfl⟩ := decompress_done h
  obtain ⟨_, _, d', hd', hending', rfl, rfl, rfl⟩ := decompress_done h'
  rw [windowBits_congr hwindow] at hd'
  obtain rfl : d = d' := by
    subst hd hd'
    rcases Nat.le_total (dstSize - doff) (dstSize' - doff') with hle | hle
    · exact (decodeBits_of_more_room hle (hending ▸ endingOf_ne_overflow ok)).symm
    · exact decodeBits_of_more_room hle (hending' ▸ endingOf_ne_overflow ok')
  refine ⟨endingOf_inj (hending'.symm.trans hending), rfl, by omega, fun j hj => ?_⟩
  rw [read_storeBytes_inside hwf' hj, read_storeBytes_inside hwf hj]

/-- Settles O56: the message's own bits, with more after them, and a beginning of them. -/
theorem windowsLongerAndShorterThanTheMessage : Obligations.WindowsLongerAndShorterThanTheMessage := by
  intro rom src dst dst1 srcSize off len dstSize doff n m h
  obtain ⟨hsrc, hdst, d, hd, hcomplete, hused, rfl, rfl⟩ := decompress_complete h
  refine ⟨fun len' hle hsrc' => ?_, fun len' hlt => ?_⟩
  · obtain ⟨more, rfl⟩ := Nat.exists_eq_add_of_le hle
    rw [decompress_eq_result rom src dst hsrc' hdst, windowBits_append,
      decodeBits_append_of_complete (hd.symm ▸ hcomplete), hd, Decoded.result_of_ending (ok := true) hcomplete]
    simp only [Decoded.consumed, hcomplete, hused]
  · obtain ⟨more, rfl⟩ := Nat.exists_eq_add_of_le hlt.le
    rw [windowBits_append] at hd
    have hlong : (windowBits src off len').length ≤
        (decodeBits rom (dstSize - doff) 0 (windowBits src off len' ++ windowBits src (off + len') more)).used := by
      rw [hd, length_windowBits]
      omega
    obtain ⟨hinc, htaken, rest, hbytes⟩ := decodeBits_of_le_used hlong
    obtain ⟨pre, hpre⟩ : ∃ pre, decodeBits rom (dstSize - doff) 0 (windowBits src off len') = pre := ⟨_, rfl⟩
    rw [hpre] at hinc htaken hbytes
    rw [hd] at hbytes
    rw [length_windowBits] at htaken
    refine ⟨pre.bytes.length, storeBytes dst doff pre.bytes, ?_, ?_, fun j hj => ?_⟩
    · rw [decompress_eq_result rom src dst (by omega) hdst, hpre, Decoded.result_of_ending (ok := false) hinc]
      simp only [Decoded.consumed, hinc, htaken, Nat.mul_div_cancel_left _ (Nat.zero_lt_succ 7)]
    · rw [← hbytes, List.length_append]
      exact Nat.le_add_right _ _
    · rw [← hbytes, storeBytes_append, read_storeBytes_outside _ (.inl (Nat.add_lt_add_left hj doff))]

/-- Settles O57: the walk of a message, in a window that holds it. -/
theorem messageDecodesToItsBytes : Obligations.MessageDecodesToItsBytes := by
  intro rom src dst srcSize off len dstSize doff m codewords bytes sentinel padding hwf hbytes hend hbits hpadding hm hsrc
    hroom
  obtain ⟨more, rfl⟩ := Nat.exists_eq_add_of_le hm
  obtain ⟨room, rfl⟩ := Nat.exists_eq_add_of_le hroom
  obtain ⟨k, hk, hdecode⟩ := decodeBits_message hbytes hend room (padding ++ windowBits src (off + m) more)
  have hwalk : decodeBits rom (doff + bytes.length + room - doff) 0 (windowBits src off (m + more)) =
      ⟨bytes, .complete, k⟩ := by
    rw [windowBits_append, hbits, List.append_assoc, ← hdecode]
    congr 1
    omega
  have hlength := congrArg List.length hbits
  rw [length_windowBits, List.length_append, hk] at hlength
  refine ⟨storeBytes dst doff bytes, ?_, fun j hj => read_storeBytes_inside hwf hj, fun a ha =>
    read_storeBytes_outside dst ha⟩
  rw [decompress_eq_result rom src dst hsrc (by omega), hwalk, Decoded.result_of_ending (ok := true) rfl]
  simp only [Decoded.consumed, CallResult.done.injEq]
  exact ⟨trivial, trivial, by omega, trivial⟩

end Sys2Proof

namespace Sys2Proof.Machine

/-! ## Faults (R150 to R157)

SUPPORT. `START` by which of its tests fails first, `EMIT` as the only fault of a running call, and the moves that `FAULT`
leaves without effect. -/

/-! ### The range faults of `START` (R153, R154) -/

theorem beginCall_of_srcRange {s : State} (h : s.srcSize < s.srcOff + s.srcLen) :
    beginCall s = raiseFault .srcRange (clearResults s) :=
  if_pos h

/-- The window is tested first, so that nothing else decides `SRC_RANGE` (R153, R160). -/
theorem beginCall_srcRange_iff (s : State) :
    (beginCall s).state = .fault ∧ (beginCall s).faultCode = .srcRange ↔ s.srcSize < s.srcOff + s.srcLen := by
  rcases beginCall_cases s with ⟨hout, h⟩ | ⟨hin, _, h⟩ | ⟨hin, _, _, h⟩ | ⟨hin, _, _, h⟩
  · simp [h, hout]
  · simp [h, hin]
  · simp [h, hin]
  · simp [h, hin]

/-- The offset is tested second, so that `DST_RANGE` also says that the window was good (R154, R160). -/
theorem beginCall_dstRange_iff (s : State) :
    (beginCall s).state = .fault ∧ (beginCall s).faultCode = .dstRange ↔
      s.srcOff + s.srcLen ≤ s.srcSize ∧ s.dstSize < s.dstOff := by
  rcases beginCall_cases s with ⟨hout, h⟩ | ⟨hin, hout, h⟩ | ⟨_, hin, _, h⟩ | ⟨_, hin, _, h⟩
  · simp [h, hout]
  · simp [h, hin, hout]
  · simp [h, hin]
  · simp [h, hin]

/-- An empty window is an incomplete call of no bytes, wherever in the span it stands (R101, R153). -/
theorem beginCall_of_empty {s : State} (hsrc : s.srcOff ≤ s.srcSize) (hdst : s.dstOff ≤ s.dstSize) (hlen : s.srcLen = 0) :
    beginCall s = finish false 0 (openCursor (clearResults s)) := by
  rw [beginCall, if_neg (by omega), if_neg (by omega), if_pos hlen]

/-! ### The overflow of a running call (R155) -/

theorem instrClass_of_byteOfInstr {i : Instr} {b : Byte} (h : byteOfInstr i = some b) : instrClass i = some .emit := by
  cases i with
  | emitZero | emitNear | emitWide => rfl
  | _ => cases h

theorem tail_state_ne_fault {s : State} (hb : s.state = .busy) : (tail s).state ≠ .fault := by
  rcases tail_cases s with ⟨_, h⟩ | ⟨_, h⟩ <;> simp [h, hb]

/-- An `EMIT` faults exactly where it has no room. -/
theorem emitByte_fault_iff (b : Byte) {s : State} (hb : s.state = .busy) :
    (emitByte b s).state = .fault ↔ s.dstSize ≤ s.destPos := by
  rcases emitByte_cases b s with ⟨hfull, h⟩ | ⟨hroom, h⟩
  · simp [h, hfull]
  · rw [h]
    exact iff_of_false (tail_state_ne_fault hb) (not_le.mpr hroom)

/-- In `BUSY` an instruction faults exactly where it is an `EMIT` without room. -/
theorem exec_fault_iff {i : Instr} {s t : State} (hb : s.state = .busy) (h : exec i s = .next t) :
    t.state = .fault ↔ instrClass i = some .emit ∧ s.dstSize ≤ s.destPos := by
  rcases exec_next_cases h with ⟨rfl, rfl⟩ | ⟨b, hi, rfl⟩ | ⟨n, rfl, rfl⟩ | ⟨r, rfl, _, rfl⟩ | ⟨_, _, hst, _⟩
  · simp [instrClass]
  · rw [emitByte_fault_iff b hb, instrClass_of_byteOfInstr hi]
    exact (and_iff_right rfl).symm
  · exact iff_of_false (tail_state_ne_fault hb) (by simp [instrClass])
  · simp [hb, instrClass]
  · simp [hb] at hst

/-! ### `FAULT` (R157, R161) -/

/-- In `FAULT` a move that is not reset changes nothing but the answer of a read. -/
theorem hostMove_in_fault {op : HostOp} {s t : State} (hf : s.state = .fault) (hreset : op ≠ .reset)
    (h : hostMove op s = .next t) : t = { s with readData := t.readData } := by
  have hnotOwner : ¬ (s.state = .idle ∨ s.state = .done) := by simp [hf]
  have hignored (n v : Nat) : hostMove (.writeReg n v) s = .next s := hostMove_writeReg_ignored n v (.inr hf)
  rcases hostMove_next_cases h with ⟨v, rfl, _⟩ | ⟨n, v, rfl, _⟩ | ⟨_, _, _, _, rfl⟩ | ⟨_, _, _, _, howner, _⟩ |
    ⟨_, _, _, _, howner, _⟩ | ⟨rfl, _⟩ | ⟨rfl, hwalk⟩
  · cases (hignored 0 v).symm.trans h
    rfl
  · cases (hignored n v).symm.trans h
    rfl
  · rfl
  · exact absurd howner hnotOwner
  · exact absurd howner hnotOwner
  · exact absurd rfl hreset
  · cases (walk_waits (by simp [hf])).symm.trans hwalk
    rfl

/-! ### Several blocks over one table (R166) -/

/-- A step of the system is a step of its block `k`, which alone is replaced, or there is no such block. -/
theorem stepAt_next_cases {y z : System} {k : Nat} (h : y.stepAt k = .next z) :
    z = y ∨ ∃ s t, y.insts[k]? = some s ∧ step s = .next t ∧ z = { insts := y.insts.set k t } := by
  unfold System.stepAt at h
  split at h
  · exact .inl (Host.Outcome.next.inj h).symm
  · split at h
    · exact .inr ⟨_, _, ‹_›, ‹_›, (Host.Outcome.next.inj h).symm⟩
    · cases h
    · cases h

/-- Replacing a block by one with the same table leaves the table shared (R82). -/
theorem sharesTable_set {y : System} {k : Nat} {s t : State} (hy : y.sharesTable) (hs : s ∈ y.insts)
    (hrom : t.rom = s.rom) : System.sharesTable { insts := y.insts.set k t } := by
  have hsame {a : State} (ha : a ∈ y.insts.set k t) : a.rom = s.rom := by
    rcases List.mem_or_eq_of_mem_set ha with ha | rfl
    · exact hy a ha s hs
    · exact hrom
  exact fun a ha b hb => (hsame ha).trans (hsame hb).symm

end Sys2Proof.Machine

namespace Sys2Proof

open Sys2Proof.Machine

/-! ## The last step of a call

SUPPORT. A call ends with its `START` step or with a bit step of a running call; what that bit step can leave, by the class
of its slot. -/

/-- What follows the first step of a run that has not ended ends where the run does. -/
theorem EndsAfter.of_succ {s u t : State} {k : Nat} (hstep : step s = .next u) (h : EndsAfter s (k + 1) t) :
    EndsAfter u k t :=
  ⟨(runFor_succ k hstep).symm.trans h.run, h.ended,
    fun j v hj hv => h.first (j + 1) v (by omega) ((runFor_succ j hstep).trans hv)⟩

/-- A run that stands at its end takes no step. -/
theorem EndsAfter.eq_zero {s t : State} {k : Nat} (h : EndsAfter s k t) (hs : Ended s) : k = 0 := by
  by_contra hk
  exact hs.ne_busy (h.first 0 s (by omega) rfl)

/-- A running call ends with a bit step of a running call, which has kept what every bit step keeps. -/
theorem running_last_step {P : State → Prop} (keep : ∀ u v, Running u → P u → walk u = .next v → P v) {k : Nat}
    {s t : State} (hs : Running s) (hP : P s) (h : EndsAfter s (k + 1) t) :
    ∃ u, runFor k s = .next u ∧ Running u ∧ P u ∧ walk u = .next t := by
  induction k generalizing s with
  | zero =>
    obtain ⟨u, hu⟩ := walk_answers hs.config hs.busy hs.inv
    cases (h.of_succ (hs.step_eq.trans hu)).run
    exact ⟨s, rfl, hs, hP, hu⟩
  | succ k ih =>
    obtain ⟨u, hu⟩ := walk_answers hs.config hs.busy hs.inv
    have hstep : step s = .next u := hs.step_eq.trans hu
    have hrest : EndsAfter u (k + 1) t := h.of_succ hstep
    rcases running_walk hs hu with hend | ⟨hrun, _⟩
    · cases hrest.eq_zero hend
    · rw [runFor_succ k hstep]
      exact ih hrun (keep s u hs hP hu) hrest

/-- After its `START` step, a call is a run to its end. -/
theorem CallEndsAt.after_start {s t : State} {k : Nat} (hr : ReadyToStart s) (h : CallEndsAt s (k + 1) t) :
    EndsAfter (beginCall { s with inputs := [] }) k t :=
  ⟨(runFor_succ k (ready_step hr)).symm.trans h.run, h.ended,
    fun j u hj hu => h.first (j + 1) u (by omega) (by omega) ((runFor_succ j (ready_step hr)).trans hu)⟩

/-- `u` is a state of the running call that `s` started, whose window and operands stand where `START` found them. -/
structure CallPoint (s u : State) : Prop where
  inv : Inv u
  srcLen : u.srcLen = s.srcLen
  dstOff : u.dstOff = s.dstOff
  endPos : u.state = .busy → u.endPos = s.srcOff + s.srcLen

theorem callPoint_beginCall {s : State} (hs : Inv s) (hr : ReadyToStart s) :
    CallPoint s (beginCall { s with inputs := [] }) := by
  have hf := execFrame_beginCall { s with inputs := [] }
  refine ⟨inv_beginCall (inv_hostFields hs [] s.readData) (operandWithoutValue_none_iff.mpr hr.held), hf.srcLen, hf.dstOff,
    fun hb => ?_⟩
  rcases beginCall_cases { s with inputs := [] } with ⟨_, h⟩ | ⟨_, _, h⟩ | ⟨_, _, _, h⟩ | ⟨_, _, _, h⟩ <;> rw [h] at hb ⊢
  · cases hb
  · cases hb
  · cases hb
  · rfl

theorem callPoint_walk {s u v : State} (hu : Running u) (hP : CallPoint s u) (h : walk u = .next v) : CallPoint s v := by
  obtain ⟨hlen, hoff, hgo⟩ := bitStepConsumesOneBit u v hP.inv hu.busy h
  exact ⟨inv_walk hP.inv h, hlen.trans hP.srcLen, hoff.trans hP.dstOff,
    fun hb => (hgo hb).1.trans (hP.endPos hu.busy)⟩

/-- The bit of a running call lies in the window that `START` found (R136). -/
theorem CallPoint.in_window {s u : State} (hP : CallPoint s u) (hu : Running u) :
    s.srcOff ≤ u.srcOff ∧ u.srcOff < s.srcOff + s.srcLen := by
  have hend := hP.endPos hu.busy
  have hlen := hP.srcLen
  have hstart := hu.inv.startLe
  have hguard := hu.inv.guard
  rw [callStart] at hstart
  omega

/-- A call ends with its `START` step, or with a bit step from a state of the running call. -/
theorem call_last_step {s t : State} {k : Nat} (hs : Inv s) (hr : ReadyToStart s) (h : CallEndsAt s k t) :
    (k = 1 ∧ t = beginCall { s with inputs := [] }) ∨
      ∃ u, runFor (k - 1) s = .next u ∧ Running u ∧ CallPoint s u ∧ walk u = .next t ∧
        (t.state = .done → t.success = false → k = 8 * s.srcLen + 1) := by
  obtain ⟨k, rfl⟩ := Nat.exists_eq_add_of_le' h.startStep
  have hends : EndsAfter (beginCall { s with inputs := [] }) k t := h.after_start hr
  cases k with
  | zero =>
    cases hends.run
    exact .inl ⟨rfl, rfl⟩
  | succ k =>
    rcases ready_beginCall hr with hend | ⟨hrun, hleft⟩
    · cases hends.eq_zero hend
    · obtain ⟨u, hk, hu, hP, hwalk⟩ :=
        running_last_step (P := CallPoint s) (fun _ _ => callPoint_walk) hrun (callPoint_beginCall hs hr) hends
      refine .inr ⟨u, (runFor_succ k (ready_step hr)).trans hk, hu, hP, hwalk, fun hd ht => ?_⟩
      rw [incomplete_takes_every_bit hrun hends hd ht, hleft]

/-- The three ways a bit step ends a call: complete by `END`, a fault by an `EMIT` without room, or incomplete by the
exhaustion test after an `EMIT` or a `NODE` (R104 to R107). -/
theorem ending_walk_cases {u t : State} (hu : Running u) (h : walk u = .next t) (hend : Ended t) :
    (classOf (tableNext u.rom u.node (sourceBit u)) = .endMessage ∧
        t = finish true (u.destPos - u.dstOff) { u with srcOff := u.srcOff + 1 }) ∨
      (classOf (tableNext u.rom u.node (sourceBit u)) = .emit ∧ u.dstSize ≤ u.destPos ∧ t = raiseFault .dstOverflow u) ∨
      ∃ n p d, t = finish false (p - u.dstOff) (advanceBit (acted n p d u)) ∧
        (advanceBit (acted n p d u)).srcOff = u.endPos ∧
        (classOf (tableNext u.rom u.node (sourceBit u)) = .emit ∧ p = u.destPos + 1 ∨
          classOf (tableNext u.rom u.node (sourceBit u)) = .node ∧ p = u.destPos) := by
  have htail {n : NodeId} {p : Nat} {d : List Host.Cell} (he : Ended (tail (acted n p d u))) :
      tail (acted n p d u) = finish false (p - u.dstOff) (advanceBit (acted n p d u)) ∧
        (advanceBit (acted n p d u)).srcOff = u.endPos := by
    rcases tail_cases (acted n p d u) with ⟨hoff, h⟩ | ⟨_, h⟩
    · exact ⟨h, hoff⟩
    · exact absurd (by simp [h, hu.busy]) he.ne_busy
  rw [walk_eq_exec hu.busy (hu.inv.guard.trans_le hu.inv.inSpan) hu.inv.bitnumPos hu.inv.bitnumLe] at h
  cases hc : classOf (tableNext u.rom u.node (sourceBit u)) with
  | endMessage =>
    cases (exec_of_end hc u).symm.trans h
    exact .inl ⟨rfl, rfl⟩
  | emit =>
    cases (exec_of_emit hc u).symm.trans h
    rcases Nat.lt_or_ge u.destPos u.dstSize with hroom | hfull
    · rw [emitByte_of_room _ hroom] at hend ⊢
      exact .inr (.inr ⟨_, _, _, (htail hend).1, (htail hend).2, .inl ⟨rfl, rfl⟩⟩)
    · exact .inr (.inl ⟨rfl, hfull, emitByte_of_full _ hfull⟩)
  | node =>
    cases (exec_of_node hc u).symm.trans h
    exact .inr (.inr ⟨_, _, _, (htail hend).1, (htail hend).2, .inr ⟨rfl, rfl⟩⟩)
  | rsvd =>
    have hrange := (wfRange_of_romInRange (configRefusal_none_iff.mp hu.config).1 u.node (sourceBit u)).2
    exact absurd (classOf_rsvd_iff.mp hc) (by omega)

/-! ## Exceptions: the statements -/

/-- Settles O50: the `START` step ends a call in one of three ways, and its last bit step in one of three others. -/
theorem callEndsInOneOfFiveWays : Obligations.CallEndsInOneOfFiveWays := by
  intro s hs hr
  obtain ⟨k, t, hends, _⟩ := call_ends_with (P := fun _ => True) hr trivial fun _ _ _ _ _ => trivial
  refine ⟨k, t, hends, ?_⟩
  rcases call_last_step hs hr hends with ⟨rfl, rfl⟩ | ⟨u, hk, hu, hP, hwalk, hbits⟩
  · rcases beginCall_cases { s with inputs := [] } with ⟨hsrc, h⟩ | ⟨_, hdst, h⟩ | ⟨_, _, hlen, h⟩ | ⟨_, _, _, h⟩
    · rw [h]
      exact .inr (.inr (.inr (.inl ⟨hsrc, rfl, rfl, rfl, rfl, rfl, rfl⟩)))
    · rw [h]
      exact .inr (.inr (.inr (.inr (.inl ⟨hdst, rfl, rfl, rfl, rfl, rfl, rfl⟩))))
    · rw [h]
      exact .inr (.inr (.inl ⟨hlen, rfl, rfl, rfl, rfl, rfl, rfl⟩))
    · exact absurd (by rw [h]; rfl) hends.ended.ne_busy
  · have hstep : step u = .next t := hu.step_eq.trans hwalk
    have hfault : u.faultCode = .none := hP.inv.status.faultCode_none hu.busy
    have hsuccess : u.success = false := hP.inv.status.success_false hu.busy
    obtain ⟨hlow, hhigh⟩ := hP.in_window hu
    rw [← hP.dstOff]
    rcases ending_walk_cases hu hwalk hends.ended with ⟨hc, rfl⟩ | ⟨hc, hfull, rfl⟩ | ⟨n, p, d, rfl, hlast, hc⟩
    · exact .inl ⟨u, hk, hu.busy, hstep, hc, rfl, rfl, hfault, rfl, Nat.add_comm _ _, hlow, hhigh⟩
    · exact .inr (.inr (.inr (.inr (.inr
        ⟨u, hk, hu.busy, hstep, hc, hfull, rfl, hsuccess, rfl, hu.inv.noBytes, rfl, hlow, hhigh⟩))))
    · refine .inr (.inl ⟨by omega, u, hk, hu.busy, hstep, rfl, rfl, by simp [hfault], hbits rfl rfl, ?_,
        hlast.trans (hP.endPos hu.busy)⟩)
      rcases hc with ⟨hc, rfl⟩ | ⟨hc, rfl⟩
      · exact .inl ⟨hc, rfl⟩
      · exact .inr ⟨hc, rfl⟩

/-- Settles O41: the walker waits, and of the host's moves only reset has an effect. -/
theorem faultHoldsUntilReset : Obligations.FaultHoldsUntilReset := by
  intro s t hf h hreset
  rcases step_next_cases h with ⟨_, hwalk⟩ | ⟨op, rest, hin, hmove⟩
  · cases (walk_waits (by simp [hf])).symm.trans hwalk
    rfl
  · have ht := hostMove_in_fault (s := { s with inputs := rest }) hf (fun hop => hreset rest (hop ▸ hin)) hmove
    have hrest : t.inputs = rest := by rw [ht]
    rw [hrest]
    exact congrArg live ht

/-- Settles O47: a step replaces one block, by one with the same table. -/
theorem instancesAreIndependent : Obligations.InstancesAreIndependent := by
  intro y z k h
  rcases stepAt_next_cases h with rfl | ⟨s, t, hk, hstep, rfl⟩
  · exact ⟨rfl, fun _ _ => rfl, id⟩
  · refine ⟨List.length_set, fun j hj => ?_, fun hy => ?_⟩
    · rw [List.getElem?_set_ne hj.symm]
    · exact sharesTable_set hy (List.mem_of_getElem? hk) (sameConfig_step hstep).rom

/-- Settles O23: the first test of `START`, and the empty window at the end of the span, which passes it. -/
theorem sourceRangeFaultAtStart : Obligations.SourceRangeFaultAtStart := by
  intro r s hst hoff hlen hdst
  refine ⟨beginCall s, exec_start_of_held r hst hoff hlen hdst, beginCall_srcRange_iff s, fun hout => ?_,
    fun hend hempty hin => ?_⟩
  · rw [beginCall_of_srcRange hout]
    exact ⟨rfl, rfl, rfl, rfl⟩
  · rw [beginCall_of_empty hend.le hin hempty]
    exact ⟨rfl, rfl, rfl⟩

/-- Settles O24: the second test of `START`. -/
theorem destinationRangeFaultAtStart : Obligations.DestinationRangeFaultAtStart :=
  fun r s hst hoff hlen hdst => ⟨beginCall s, exec_start_of_held r hst hoff hlen hdst, beginCall_dstRange_iff s⟩

/-- Settles O28: the fault of an `EMIT` without room is raised before the store. -/
theorem overflowIsAnEmitWithoutRoom : Obligations.OverflowIsAnEmitWithoutRoom := by
  intro i s t hb h
  have hfault := exec_fault_iff hb h
  refine ⟨hfault, fun ht => ?_, fun hs => ⟨hs.destHigh.antisymm, Eq.ge⟩⟩
  obtain ⟨hi, hfull⟩ := hfault.mp ht
  obtain ⟨b, hbyte⟩ := byteOfInstr_of_emit hi
  cases (exec_of_byteOfInstr hbyte s).symm.trans h
  rw [emitByte_of_full b hfull]
  rfl

end Sys2Proof

namespace Sys2Proof

open Sys2Proof.Machine

/-! ## Reset and hazards

SUPPORT. Whose move a step of a running call is, and that the host's moves keep the two buffers. -/

/-- A step of a running call is the walker's, where the host has no move or leaves the step to it, or it keeps both buffers:
reset does not touch them, and the host's other moves cannot (R163, R170, R176). -/
theorem busy_step_walks_or_keeps_buffers {s t : State} (hb : s.state = .busy) (h : step s = .next t) :
    ((∀ op rest, s.inputs = op :: rest → op = .idle) ∧ ∃ rest, walk { s with inputs := rest } = .next t) ∨
      (t.src = s.src ∧ t.dst = s.dst) := by
  rcases step_next_cases h with ⟨hin, hwalk⟩ | ⟨op, rest, hin, hmove⟩
  · exact .inl ⟨by simp [hin], s.inputs, hwalk⟩
  by_cases hidle : op = .idle
  · subst hidle
    exact .inl ⟨by simp [hin], rest, hmove⟩
  by_cases hreset : op = .reset
  · subst hreset
    cases hmove
    exact .inr ⟨rfl, rfl⟩
  · have ht := hostCannotAlterARunningCall s t op rest hb hin hidle hreset h
    exact .inr ⟨by rw [ht], by rw [ht]⟩

/-- Settles O15: the reset move is `applyReset` in every admitted configuration, and every other move leaves `FAULT` as it
is (`faultHoldsUntilReset`). -/
theorem resetInAnyStateAndOnlyExitFromFault : Obligations.ResetInAnyStateAndOnlyExitFromFault := by
  refine ⟨fun s rest hc hin => ⟨applyReset { s with inputs := rest }, step_of_input hc hin, rfl, rfl, rfl, rfl, rfl, rfl,
    rfl, rfl, rfl, rfl, rfl, rfl, rfl, rfl⟩, fun s t hf h hleft => ?_⟩
  by_contra hreset
  have hlive := faultHoldsUntilReset s t hf h fun rest hin => hreset ⟨rest, hin⟩
  have hstate : t.state = s.state := by simpa using congrArg State.state hlive
  exact hleft (hstate.trans hf)

/-- Settles O45: the walker stores into `DST` only, and every step of the host's keeps both buffers. -/
theorem buffersAreStableDuringACall : Obligations.BuffersAreStableDuringACall := by
  intro s t hb h
  rcases busy_step_walks_or_keeps_buffers hb h with ⟨hsilent, rest, hwalk⟩ | ⟨hsrc, hdst⟩
  · have hsrc : t.src = s.src := (bitStepEffect_walk (s := { s with inputs := rest }) hb hwalk).src
    refine ⟨fun a => by rw [readSrc, readSrc, hsrc], ?_⟩
    rintro ⟨op, rest', hin, hidle⟩
    exact absurd (hsilent op rest' hin) hidle
  · exact ⟨fun a => by rw [readSrc, readSrc, hsrc], fun _ a => by rw [readDst, readDst, hdst]⟩

end Sys2Proof

namespace Sys2Proof

open Sys2Proof.Machine

/-! ## The encoder's codes, and the state after reset

SUPPORT. `decodeSlot_of_encode` reads a slot word's instruction back; here the same of a value written to `CTRL`, and the
three parts of the invariant after reset. -/

/-- A value of `CTRL` that encodes an instruction decodes to it: only `START` has one, with bit 0 set (R71). -/
theorem decodeCtrl_of_encode {i : Instr} {v : Byte} (h : encode i = .ctrl v) : decodeCtrl v = .ok i := by
  cases i with
  | start r =>
    obtain rfl : r ++ 1#1 = v := Code.ctrl.inj h
    have hbit : (r ++ 1#1).getLsbD 0 = true := BitVec.getLsbD_append
    have hrest : (r ++ 1#1).extractLsb' 1 7 = r :=
      BitVec.extractLsb'_append_eq_ite.trans BitVec.extractLsb'_eq_self
    rw [decodeCtrl, if_pos hbit, hrest]
  | endMessage | emitZero | emitNear _ | emitWide _ | node _ | rsvd _ => cases h

/-- Settles O2, by the encoding space of the instruction. -/
theorem decodeOfEncodeIsTheInstruction : Obligations.DecodeOfEncodeIsTheInstruction := by
  intro i hi
  cases h : encode i with
  | slot w => exact congrArg Except.ok (decodeSlot_of_encode hi h)
  | ctrl v => exact decodeCtrl_of_encode h

/-- Settles O1: every word is a literal, so the decoder runs. -/
theorem sampleWordsDecode : Obligations.SampleWordsDecode := by
  unfold Obligations.SampleWordsDecode
  decide

/-- The configuration of `State.reset`: no slot is listed, and both spans are the largest that R4 admits (log 2, log 3). -/
theorem configRefusal_reset : configRefusal State.reset = none :=
  configRefusal_none_iff.mpr ⟨rfl, le_rfl, le_rfl⟩

/-- Empty spaces are canonical and list no address. -/
theorem spacesInv_reset : SpacesInv State.reset :=
  ⟨rfl, rfl, rfl, rfl, rfl, rfl⟩

/-- After reset nothing has succeeded, faulted or been written (R37). -/
theorem statusInv_reset : StatusInv State.reset where
  faultCode := iff_of_false (fun h => h rfl) nofun
  success := nofun
  bytesWritten _ := rfl
  bytesFit := Nat.zero_le _

/-- Settles O38: the operand registers hold 0, which every width admits, and no call is running. -/
theorem resetMeetsTheInvariant : Obligations.ResetMeetsTheInvariant := by
  have hzero : 0 < 2 ^ State.reset.aw := Nat.two_pow_pos _
  have hground : GroundInv State.reset := ⟨configRefusal_reset, spacesInv_reset, hzero, hzero, hzero⟩
  exact hground.inv statusInv_reset nofun

end Sys2Proof
